-- ==== Sys2Proof/Word.lean ====
section
/-! DEFINITION. Bytes, words and bus addresses (spec/00_scope.md R9; spec/20_memory.md R70). -/

namespace Sys2Proof

/-- A byte: 8 bits, a value 0..255 (R9). -/
abbrev Byte := BitVec 8

/-- A word: 32 bits, numbered 31 (most significant) down to 0 (R9). -/
abbrev Word := BitVec 32

/-- A bus address: 24 bits (R70). -/
abbrev Addr := BitVec 24

end Sys2Proof
end

