-- ==== Sys2Proof/Config.lean ====
section
/-! DEFINITION. The implementation parameters of spec/00_scope.md section 4: the variant and the mode a command
names (R5; spec/30_encoding.md R104, R105), and the two parameters of a platform, MAXLEN (R7) and LANES (R8). -/

namespace Sys2Proof

/-- The variant: "one of {128, 192, 256}", immutable, selected per operation (R5). -/
inductive Variant where
  | v128
  | v192
  | v256
  deriving DecidableEq, Repr

/-- The mode of a whole-message command (spec/30_encoding.md R105). -/
inductive Mode where
  | ecb
  | cbc
  deriving DecidableEq, Repr

/-- The parameters of one engine, exactly the range the spec allows: MAXLEN is a multiple of 16 with
`16 <= MAXLEN <= 2^20` (R7), and `LANES >= 1` (R8). Both are stored less one, so that no value is illegal.
DESIGN CHOICE (log 4): they stand in State as fixed data. -/
structure Config where
  /-- MAXLEN / 16 - 1. -/
  blocksLessOne : Fin 65536
  /-- LANES - 1. -/
  lanesLessOne : Nat
  deriving DecidableEq, Repr

/-- MAXLEN, the capacity in bytes of the input buffer and of the output buffer (R7). -/
def Config.maxLen (c : Config) : Nat := 16 * (c.blocksLessOne.val + 1)

/-- LANES, the number of round-pipeline instances (R8). -/
def Config.lanes (c : Config) : Nat := c.lanesLessOne + 1

/-- The defaults: MAXLEN 4096 (R7), LANES 1 (R8). -/
def Config.default : Config := { blocksLessOne := 255, lanesLessOne := 0 }

end Sys2Proof
end

