-- ==== Sys2Proof/Syntax.lean ====
section
/-! DEFINITION. The commands: one constructor per row of spec/opcode_table.json (spec/30_encoding.md R107). -/

namespace Sys2Proof

/-- A legal command of the engine (R100, R107). The argument of a format A command is a number, "used as it stands"
(R106): WellFormed says which values the 16-bit field can hold. GFMUL's operands are bytes. -/
inductive Instr where
  /-- NOP; rule R250. -/
  | nop
  /-- CLEAR; rule R252. -/
  | clear
  /-- GFMUL, the product of two immediate bytes; rule R139. -/
  | gfmul (a b : Byte)
  /-- EXPAND.128; rule R156. -/
  | expand128
  /-- EXPAND.192; rule R156. -/
  | expand192
  /-- EXPAND.256; rule R156. -/
  | expand256
  /-- SUBBYTES; rule R171. -/
  | subBytes
  /-- INVSUBBYTES; rule R173. -/
  | invSubBytes
  /-- SHIFTROWS; rule R175. -/
  | shiftRows
  /-- INVSHIFTROWS; rule R177. -/
  | invShiftRows
  /-- MIXCOLUMNS; rule R179. -/
  | mixColumns
  /-- INVMIXCOLUMNS; rule R181. -/
  | invMixColumns
  /-- ADDROUNDKEY, round index r; rule R184. -/
  | addRoundKey (r : Nat)
  /-- ENCBLK; rule R187. -/
  | encBlk
  /-- DECBLK; rule R190. -/
  | decBlk
  /-- PAD; rule R204. -/
  | pad
  /-- UNPAD; rule R207. -/
  | unpad
  /-- LDBLK, block index n; rule R210. -/
  | ldBlk (n : Nat)
  /-- STBLK, block index n; rule R211. -/
  | stBlk (n : Nat)
  /-- CHIV; rule R220. -/
  | chIv
  /-- CHS; rule R221. -/
  | chS
  /-- CHBLK, block index n; rule R222. -/
  | chBlk (n : Nat)
  /-- XCH; rule R223. -/
  | xch
  /-- ENCRYPT.128.ECB; rule R231. -/
  | encrypt128Ecb
  /-- ENCRYPT.192.ECB; rule R231. -/
  | encrypt192Ecb
  /-- ENCRYPT.256.ECB; rule R231. -/
  | encrypt256Ecb
  /-- ENCRYPT.128.CBC; rule R231. -/
  | encrypt128Cbc
  /-- ENCRYPT.192.CBC; rule R231. -/
  | encrypt192Cbc
  /-- ENCRYPT.256.CBC; rule R231. -/
  | encrypt256Cbc
  /-- DECRYPT.128.ECB; rule R232. -/
  | decrypt128Ecb
  /-- DECRYPT.192.ECB; rule R232. -/
  | decrypt192Ecb
  /-- DECRYPT.256.ECB; rule R232. -/
  | decrypt256Ecb
  /-- DECRYPT.128.CBC; rule R232. -/
  | decrypt128Cbc
  /-- DECRYPT.192.CBC; rule R232. -/
  | decrypt192Cbc
  /-- DECRYPT.256.CBC; rule R232. -/
  | decrypt256Cbc
  deriving DecidableEq, Repr

end Sys2Proof
end

