-- ==== Sys2Proof/WellFormed.lean ====
section
/-! DEFINITION. Which commands have an encoding: a format A argument is "an unsigned 16-bit number"
(spec/30_encoding.md R106). The other commands have no operand, or byte operands of the right width by their type. -/

namespace Sys2Proof

/-- The argument fits the 16-bit field ARG (R102, R106). -/
def argFits (n : Nat) : Bool := n < 65536

/-- The command can be encoded: its argument, if it is a number, fits ARG. -/
def Instr.wf : Instr → Bool
  | .addRoundKey r => argFits r
  | .ldBlk n => argFits n
  | .stBlk n => argFits n
  | .chBlk n => argFits n
  | .nop | .clear | .gfmul _ _ | .expand128 | .expand192 | .expand256
  | .subBytes | .invSubBytes | .shiftRows | .invShiftRows | .mixColumns | .invMixColumns
  | .encBlk | .decBlk | .pad | .unpad | .chIv | .chS | .xch
  | .encrypt128Ecb | .encrypt192Ecb | .encrypt256Ecb | .encrypt128Cbc | .encrypt192Cbc | .encrypt256Cbc
  | .decrypt128Ecb | .decrypt192Ecb | .decrypt256Ecb | .decrypt128Cbc | .decrypt192Cbc | .decrypt256Cbc => true

end Sys2Proof
end

