-- ==== Sys2Proof/Decode.lean ====
section
/-! DEFINITION. Decoding and encoding of the command word (spec/30_encoding.md). The decoder is total on 32-bit words
and rejects every illegal word by name (R109, R110); the encoder writes the fields of R102; the 35 match and mask rows
of R107 stand beside them as the spec's second way to decode (R110). -/

namespace Sys2Proof

/-! ## Fields (R102) -/

/-- OPC, bits 7:0. -/
def fieldOpc (v : Word) : BitVec 8 := v.extractLsb' 0 8

/-- VAR, bits 9:8. -/
def fieldVar (v : Word) : BitVec 2 := v.extractLsb' 8 2

/-- MODE, bits 11:10. -/
def fieldMode (v : Word) : BitVec 2 := v.extractLsb' 10 2

/-- ZERO, bits 15:12, "must be 0000 in every command". -/
def fieldZero (v : Word) : BitVec 4 := v.extractLsb' 12 4

/-- ARG, bits 31:16. -/
def fieldArg (v : Word) : BitVec 16 := v.extractLsb' 16 16

/-- The VAR code of a variant (R104). -/
def Variant.code : Variant → BitVec 2
  | .v128 => 1
  | .v192 => 2
  | .v256 => 3

/-- The variant of a VAR code; 0 is reserved (R104). -/
def variantOfCode (c : BitVec 2) : Option Variant :=
  if c = 1 then some .v128 else if c = 2 then some .v192 else if c = 3 then some .v256 else none

/-- The MODE code of a mode (R105). -/
def Mode.code : Mode → BitVec 2
  | .ecb => 1
  | .cbc => 2

/-- The mode of a MODE code; 0 and 3 are reserved (R105). -/
def modeOfCode (c : BitVec 2) : Option Mode :=
  if c = 1 then some .ecb else if c = 2 then some .cbc else none

/-! ## Formats and opcodes (R103, R107) -/

/-- A format with the command or commands its fields select (R103). -/
inductive Format where
  /-- N: no operand. -/
  | n (i : Instr)
  /-- V: a variant. -/
  | v (i : Variant → Instr)
  /-- M: a variant and a mode. -/
  | m (i : Variant → Mode → Instr)
  /-- A: the 16-bit argument. -/
  | a (i : BitVec 16 → Instr)

/-- EXPAND of a variant: the three rows with OPC 0x20 (R107). -/
def expandInstr : Variant → Instr
  | .v128 => .expand128
  | .v192 => .expand192
  | .v256 => .expand256

/-- ENCRYPT of a variant and a mode: the six rows with OPC 0x58 (R107). -/
def encryptInstr : Variant → Mode → Instr
  | .v128, .ecb => .encrypt128Ecb
  | .v192, .ecb => .encrypt192Ecb
  | .v256, .ecb => .encrypt256Ecb
  | .v128, .cbc => .encrypt128Cbc
  | .v192, .cbc => .encrypt192Cbc
  | .v256, .cbc => .encrypt256Cbc

/-- DECRYPT of a variant and a mode: the six rows with OPC 0x59 (R107). -/
def decryptInstr : Variant → Mode → Instr
  | .v128, .ecb => .decrypt128Ecb
  | .v192, .ecb => .decrypt192Ecb
  | .v256, .ecb => .decrypt256Ecb
  | .v128, .cbc => .decrypt128Cbc
  | .v192, .cbc => .decrypt192Cbc
  | .v256, .cbc => .decrypt256Cbc

/-- The opcode map (R107). A value not in it is reserved (R109). -/
def formatOf (opc : BitVec 8) : Option Format :=
  match opc.toNat with
  | 0x00 => some (.n .nop)
  | 0x01 => some (.n .clear)
  | 0x10 => some (.a fun arg => .gfmul (arg.extractLsb' 8 8) (arg.extractLsb' 0 8))
  | 0x20 => some (.v expandInstr)
  | 0x30 => some (.n .subBytes)
  | 0x31 => some (.n .invSubBytes)
  | 0x32 => some (.n .shiftRows)
  | 0x33 => some (.n .invShiftRows)
  | 0x34 => some (.n .mixColumns)
  | 0x35 => some (.n .invMixColumns)
  | 0x36 => some (.a fun arg => .addRoundKey arg.toNat)
  | 0x38 => some (.n .encBlk)
  | 0x39 => some (.n .decBlk)
  | 0x40 => some (.n .pad)
  | 0x41 => some (.n .unpad)
  | 0x42 => some (.a fun arg => .ldBlk arg.toNat)
  | 0x43 => some (.a fun arg => .stBlk arg.toNat)
  | 0x50 => some (.n .chIv)
  | 0x51 => some (.n .chS)
  | 0x52 => some (.a fun arg => .chBlk arg.toNat)
  | 0x53 => some (.n .xch)
  | 0x58 => some (.m encryptInstr)
  | 0x59 => some (.m decryptInstr)
  | _ => none

/-! ## The decoder (R109, R110) -/

/-- Why a word is no legal command (R109). All of them complete with IllegalCommand. -/
inductive Illegal where
  /-- The OPC value is not in the opcode map. -/
  | reservedOpcode
  /-- A field the format does not use is not zero (R108). -/
  | unusedFieldSet
  /-- VAR = 0 in format V or M (R104). -/
  | reservedVariant
  /-- MODE = 0 or 3 in format M (R105). -/
  | reservedMode
  deriving DecidableEq, Repr

/-- The decoder as R110 describes it: look up the format of OPC, check the must-be-zero fields of the format (R103),
for V and M the variant, for M the mode, for A extract ARG. -/
def decode (v : Word) : Except Illegal Instr :=
  match formatOf (fieldOpc v) with
  | none => .error .reservedOpcode
  | some (.n i) =>
    if fieldVar v = 0 ∧ fieldMode v = 0 ∧ fieldZero v = 0 ∧ fieldArg v = 0 then .ok i else .error .unusedFieldSet
  | some (.v i) =>
    if fieldMode v = 0 ∧ fieldZero v = 0 ∧ fieldArg v = 0 then
      match variantOfCode (fieldVar v) with
      | none => .error .reservedVariant
      | some x => .ok (i x)
    else .error .unusedFieldSet
  | some (.m i) =>
    if fieldZero v = 0 ∧ fieldArg v = 0 then
      match variantOfCode (fieldVar v), modeOfCode (fieldMode v) with
      | none, _ => .error .reservedVariant
      | some _, none => .error .reservedMode
      | some x, some y => .ok (i x y)
    else .error .unusedFieldSet
  | some (.a i) =>
    if fieldVar v = 0 ∧ fieldMode v = 0 ∧ fieldZero v = 0 then .ok (i (fieldArg v)) else .error .unusedFieldSet

/-! ## The encoder -/

/-- A command word from its fields, ARG in bits 31:16 down to OPC in bits 7:0, ZERO zero (R102). -/
def mkWord (arg : BitVec 16) (mode var : BitVec 2) (opc : BitVec 8) : Word := arg ++ 0#4 ++ mode ++ var ++ opc

/-- A format N word. -/
def wordN (opc : BitVec 8) : Word := mkWord 0 0 0 opc

/-- A format V word. -/
def wordV (x : Variant) (opc : BitVec 8) : Word := mkWord 0 0 x.code opc

/-- A format M word. -/
def wordM (x : Variant) (y : Mode) (opc : BitVec 8) : Word := mkWord 0 y.code x.code opc

/-- A format A word. -/
def wordA (arg : BitVec 16) (opc : BitVec 8) : Word := mkWord arg 0 0 opc

/-- The word of a command (R107). Only a well-formed command has a word of its own: a larger argument loses its
high bits here. -/
def encode : Instr → Word
  | .nop => wordN 0x00
  | .clear => wordN 0x01
  | .gfmul a b => wordA (a ++ b) 0x10
  | .expand128 => wordV .v128 0x20
  | .expand192 => wordV .v192 0x20
  | .expand256 => wordV .v256 0x20
  | .subBytes => wordN 0x30
  | .invSubBytes => wordN 0x31
  | .shiftRows => wordN 0x32
  | .invShiftRows => wordN 0x33
  | .mixColumns => wordN 0x34
  | .invMixColumns => wordN 0x35
  | .addRoundKey r => wordA (BitVec.ofNat 16 r) 0x36
  | .encBlk => wordN 0x38
  | .decBlk => wordN 0x39
  | .pad => wordN 0x40
  | .unpad => wordN 0x41
  | .ldBlk n => wordA (BitVec.ofNat 16 n) 0x42
  | .stBlk n => wordA (BitVec.ofNat 16 n) 0x43
  | .chIv => wordN 0x50
  | .chS => wordN 0x51
  | .chBlk n => wordA (BitVec.ofNat 16 n) 0x52
  | .xch => wordN 0x53
  | .encrypt128Ecb => wordM .v128 .ecb 0x58
  | .encrypt192Ecb => wordM .v192 .ecb 0x58
  | .encrypt256Ecb => wordM .v256 .ecb 0x58
  | .encrypt128Cbc => wordM .v128 .cbc 0x58
  | .encrypt192Cbc => wordM .v192 .cbc 0x58
  | .encrypt256Cbc => wordM .v256 .cbc 0x58
  | .decrypt128Ecb => wordM .v128 .ecb 0x59
  | .decrypt192Ecb => wordM .v192 .ecb 0x59
  | .decrypt256Ecb => wordM .v256 .ecb 0x59
  | .decrypt128Cbc => wordM .v128 .cbc 0x59
  | .decrypt192Cbc => wordM .v192 .cbc 0x59
  | .decrypt256Cbc => wordM .v256 .cbc 0x59

/-! ## The opcode map as match and mask rows (R107) -/

/-- The mask of a row without operand fields. -/
def fullMask : Word := 0xFFFFFFFF

/-- The mask of a format A row: ARG is free. -/
def argMask : Word := 0x0000FFFF

/-- The match value and the mask of a command's row in the opcode map (R107). -/
def rowOf : Instr → Word × Word
  | .nop => (0x00000000, fullMask)
  | .clear => (0x00000001, fullMask)
  | .gfmul _ _ => (0x00000010, argMask)
  | .expand128 => (0x00000120, fullMask)
  | .expand192 => (0x00000220, fullMask)
  | .expand256 => (0x00000320, fullMask)
  | .subBytes => (0x00000030, fullMask)
  | .invSubBytes => (0x00000031, fullMask)
  | .shiftRows => (0x00000032, fullMask)
  | .invShiftRows => (0x00000033, fullMask)
  | .mixColumns => (0x00000034, fullMask)
  | .invMixColumns => (0x00000035, fullMask)
  | .addRoundKey _ => (0x00000036, argMask)
  | .encBlk => (0x00000038, fullMask)
  | .decBlk => (0x00000039, fullMask)
  | .pad => (0x00000040, fullMask)
  | .unpad => (0x00000041, fullMask)
  | .ldBlk _ => (0x00000042, argMask)
  | .stBlk _ => (0x00000043, argMask)
  | .chIv => (0x00000050, fullMask)
  | .chS => (0x00000051, fullMask)
  | .chBlk _ => (0x00000052, argMask)
  | .xch => (0x00000053, fullMask)
  | .encrypt128Ecb => (0x00000558, fullMask)
  | .encrypt192Ecb => (0x00000658, fullMask)
  | .encrypt256Ecb => (0x00000758, fullMask)
  | .encrypt128Cbc => (0x00000958, fullMask)
  | .encrypt192Cbc => (0x00000A58, fullMask)
  | .encrypt256Cbc => (0x00000B58, fullMask)
  | .decrypt128Ecb => (0x00000559, fullMask)
  | .decrypt192Ecb => (0x00000659, fullMask)
  | .decrypt256Ecb => (0x00000759, fullMask)
  | .decrypt128Cbc => (0x00000959, fullMask)
  | .decrypt192Cbc => (0x00000A59, fullMask)
  | .decrypt256Cbc => (0x00000B59, fullMask)

/-- One command of every row, in the table's order, with zero operands. -/
def tableRows : List Instr :=
  [.nop, .clear, .gfmul 0 0, .expand128, .expand192, .expand256, .subBytes, .invSubBytes, .shiftRows, .invShiftRows,
   .mixColumns, .invMixColumns] ++
  [.addRoundKey 0, .encBlk, .decBlk, .pad, .unpad, .ldBlk 0, .stBlk 0, .chIv, .chS, .chBlk 0, .xch] ++
  [.encrypt128Ecb, .encrypt192Ecb, .encrypt256Ecb, .encrypt128Cbc, .encrypt192Cbc, .encrypt256Cbc,
   .decrypt128Ecb, .decrypt192Ecb, .decrypt256Ecb, .decrypt128Cbc, .decrypt192Cbc, .decrypt256Cbc]

/-- A word selects a command's row when `v & mask = match` (R107). -/
def selectsRow (v : Word) (i : Instr) : Bool := v &&& (rowOf i).2 == (rowOf i).1

/-! ## The host's question -/

/-- The command the decoder reads from a table word. A command is one 32-bit word (R100); a bit above the row's
`nbits` is zero, and a number that needs more than 32 bits is no command word. -/
def decodeTableWord (nbits w : Nat) : Option Instr :=
  if w % 2 ^ nbits < 2 ^ 32 then
    match decode (BitVec.ofNat 32 (w % 2 ^ nbits)) with
    | .ok i => some i
    | .error _ => none
  else none

end Sys2Proof
end

