-- ==== Sys2Proof/Machine/State.lean ====
section
/-! DEFINITION. The state of the engine (spec/10_state.md) with the host's side of the bus, and the state after reset. -/

namespace Sys2Proof.Machine

/-- A linear block: 16 bytes, "byte i is position i" (spec/00_scope.md R10). -/
abbrev Block := Vector Byte 16

/-- A state matrix: `s[r][c]`, row r, column c (spec/00_scope.md R11). -/
abbrev Mat := Vector (Vector Byte 4) 4

/-- The round-key file, 60 words (spec/10_state.md R27). -/
abbrev Schedule := Vector Word 60

/-- A buffer: its bytes that are not zero, as (offset, byte), offsets strictly rising. An unlisted offset reads as 0,
which is the reset content of every buffer byte (spec/10_state.md R64). -/
abbrev Memory := List Host.Cell

/-- The sequencer position SEQ (spec/10_state.md R62), as far as State holds it (log 2): "IDLE whenever BUSY = 0".
`running k`: the launched command completes after k more host operations (log 3). -/
inductive Seq where
  | idle
  | running (left : Nat)
  deriving DecidableEq, Repr

/-- What the host can do (spec/45_control.md R254), one bus access or one reset each, and what it does by a value it has
read: two pseudo-operations of spec/30_encoding.md R112 and the last line of spec/45_control.md R256 (log 13). -/
inductive HostOp where
  /-- `MemRead(addr, width)`; only width 4 is accepted (spec/20_memory.md R75). -/
  | read (addr : Addr) (width : Nat)
  /-- `MemWrite(addr, width, v)`. -/
  | write (addr : Addr) (width : Nat) (v : Word)
  /-- WAIT: read STATUS until BUSY is 0. -/
  | wait
  /-- RDOUT: read OUTLEN, then the words of OUT that hold the result. -/
  | readOut
  /-- The end of a call: "if ERRCODE = 0: RDOUT ...; else ERRCODE names the error" (R256), by the STATUS its WAIT read. -/
  | readResult
  /-- The reset input, asserted and released (spec/70_reset_and_hazards.md R290). -/
  | reset
  deriving DecidableEq, Repr

/-- The bus's answer to one access (spec/20_memory.md R72, R73, R75). -/
inductive Answer where
  | data (v : Word)
  | ok
  | busError
  deriving DecidableEq, Repr

/-- The errors a command can end with (spec/60_exceptions.md R261). -/
inductive CmdError where
  | invalidKeyLength
  | invalidInputLength
  | missingIv
  | invalidPadding
  | illegalCommand
  | noSchedule
  | operandRange
  | bufferOverflow
  deriving DecidableEq, Repr

/-- Every piece of state the spec gives the engine (spec/10_state.md R20), then the model's own fields: the parameters
(log 4) and the host's side of the bus (log 1, log 3). -/
structure State where
  /-- KEY (R21). -/
  key : Vector Byte 32
  /-- KEYLEN (R22). -/
  keylen : BitVec 6
  /-- IV (R23). -/
  iv : Block
  /-- IVP (R24). -/
  ivp : Bool
  /-- S, the state register (R25). -/
  st : Mat
  /-- CHAIN (R26). -/
  chain : Block
  /-- W (R27). -/
  w : Schedule
  /-- SCHED_VALID (R28). -/
  schedValid : Bool
  /-- SCHED_VAR (R28). -/
  schedVar : BitVec 2
  /-- GFR (R29). -/
  gfr : Byte
  /-- IN (R30), keyed by offset in the buffer. -/
  inBuf : Memory
  /-- LEN (R31). -/
  len : Word
  /-- OUT (R32), keyed by offset in the buffer. -/
  outBuf : Memory
  /-- OUTLEN (R33). -/
  outlen : Word
  /-- BUSY (R35). -/
  busy : Bool
  /-- DONE (R35). -/
  done : Bool
  /-- ERRCODE (R35). -/
  errcode : Byte
  /-- LASTCMD (R36). -/
  lastcmd : Word
  /-- SEQ (R62). -/
  seq : Seq
  /-- The parameters MAXLEN and LANES (log 4). No step changes them. -/
  cfg : Config
  /-- The host's operations not yet issued, next first (log 1). -/
  pending : List HostOp
  /-- The bus's answers so far, newest first (log 1). -/
  answers : List Answer
  /-- For each coming launch, how many host operations are served while BUSY = 1; none listed stands for 0 (log 3). -/
  delays : List Nat
  deriving DecidableEq, Repr

/-- A reason for the machine to stop. There is none: "Nothing in the engine has the treatment stuck"
(spec/93_implementation_defined.md), a command error is a completion (spec/60_exceptions.md R270) and a bus error is
an answer (R284). So the type has no constructor. -/
inductive Fault where
  deriving DecidableEq, Repr

/-- A reason to give no meaning. -/
inductive Refusal where
  /-- Raised by exec's arm of an instruction that has no meaning yet; safe. No arm raises it: every row has a meaning. -/
  | notModelled (mnemonic : String)
  deriving DecidableEq, Repr

/-- The reset state for given parameters: "every piece of state is zero" and SEQ is IDLE (R64). -/
def State.resetFor (cfg : Config) : State where
  key := Vector.replicate 32 0
  keylen := 0
  iv := Vector.replicate 16 0
  ivp := false
  st := Vector.replicate 4 (Vector.replicate 4 0)
  chain := Vector.replicate 16 0
  w := Vector.replicate 60 0
  schedValid := false
  schedVar := 0
  gfr := 0
  inBuf := []
  len := 0
  outBuf := []
  outlen := 0
  busy := false
  done := false
  errcode := 0
  lastcmd := 0
  seq := .idle
  cfg := cfg
  pending := []
  answers := []
  delays := []

/-- The machine right after reset (R64), with the default parameters (spec/00_scope.md R7, R8) and a host that has
nothing pending (log 1, log 3, log 4). -/
def State.reset : State := State.resetFor Config.default

end Sys2Proof.Machine
end

