-- ==== Sys2Proof/Machine/Operands.lean ====
section
/-! DEFINITION. Operand forms: bytes of words, the numbers a variant determines, blocks and their two
representations, and the byte offset of a block (spec/00_scope.md R5, R11, R12; spec/30_encoding.md R104, R106;
spec/43_padding_segmentation.md R200, R201). -/

namespace Sys2Proof.Machine

/-! ## Words and bytes: big-endian everywhere (spec/00_scope.md R12, spec/20_memory.md R76) -/

/-- `BE32(b0, b1, b2, b3)`, b0 in bits 31:24 and b3 in bits 7:0 (R12). -/
def be32 (b0 b1 b2 b3 : Byte) : Word := b0 ++ b1 ++ b2 ++ b3

/-- `Byte(w, k) = w[31-8k : 24-8k]` for k in 0..3 (R12). -/
def byteOf (v : Word) (k : Nat) : Byte := v.extractLsb' (24 - 8 * k) 8

/-- The four bytes of a word, most significant first. -/
def wordBytes (v : Word) : List Byte := [byteOf v 0, byteOf v 1, byteOf v 2, byteOf v 3]

/-- The word at byte offset `4k` of a byte array: `BE32(A[4k], ..., A[4k+3])` (R76). -/
def wordAt {n : Nat} (x : Vector Byte n) (k : Nat) : Word :=
  be32 (x.getD (4 * k) 0) (x.getD (4 * k + 1) 0) (x.getD (4 * k + 2) 0) (x.getD (4 * k + 3) 0)

/-- A byte array with the word at byte offset `4k` replaced (R76). -/
def setWordAt {n : Nat} (x : Vector Byte n) (k : Nat) (v : Word) : Vector Byte n :=
  Vector.ofFn fun j => if j.val / 4 = k then byteOf v (j.val % 4) else x[j]

/-! ## The numbers of a variant (R5, R104) -/

/-- `Nk = 2·VAR + 2`, from a VAR code (R104). -/
def nkOfCode (c : BitVec 2) : Nat := 2 * c.toNat + 2

/-- `Nr = Nk + 6`, from a VAR code (R104). Code 0 is no variant; `SCHED_VAR` holds it only when there is no schedule
(spec/10_state.md R28), and every command that uses this number checks that first (log 11). -/
def nrOfCode (c : BitVec 2) : Nat := nkOfCode c + 6

/-- Nk, "number of 32-bit key-schedule words consumed per key (4/6/8)" (R5). -/
def nk (x : Variant) : Nat := nkOfCode x.code

/-- Nr, "number of rounds (10/12/14)" (R5). -/
def nr (x : Variant) : Nat := nrOfCode x.code

/-- KeyLen, "key length in bytes (16/24/32)" (R5). -/
def keyLen (x : Variant) : Nat := 4 * nk x

/-- NW, "total round-key length in 32-bit words = 4 × (rounds + 1)" (R5). -/
def nw (x : Variant) : Nat := 4 * (nr x + 1)

/-! ## Blocks (R11, R200, R201) -/

/-- A matrix from its entries. -/
def Mat.ofFn (f : Fin 4 → Fin 4 → Byte) : Mat := Vector.ofFn fun r => Vector.ofFn fun c => f r c

/-- `ToState(L)`: `s[r][c] = L[r + 4c]` (R11). -/
def toState (l : Block) : Mat := Mat.ofFn fun r c => l[r.val + 4 * c.val]

/-- `ToLinear(s)`: `L[r + 4c] = s[r][c]` (R11). -/
def toLinear (s : Mat) : Block := Vector.ofFn fun j => s[j.val % 4][j.val / 4]

/-- Column c of a state as a word, row 0 in bits 31:24 (spec/10_state.md R50). -/
def columnWord (s : Mat) (c : Fin 4) : Word := be32 s[0][c] s[1][c] s[2][c] s[3][c]

/-- A state with column k replaced by the bytes of a word (spec/10_state.md R50). -/
def setColumn (s : Mat) (k : Fin 4) (v : Word) : Mat :=
  Mat.ofFn fun r c => if c = k then byteOf v r.val else s[r][c]

/-- `XorBlock(A, B)` (spec/44_mode_controller.md, before section 1). -/
def xorBlock (a b : Block) : Block := Vector.ofFn fun k => a[k] ^^^ b[k]

/-- Block i of a byte sequence: `B[16i .. 16i+15]` (R201). A byte past the end reads 0; Split never looks there. -/
def blockOf (b : List Byte) (i : Nat) : Block := Vector.ofFn fun k => b.getD (16 * i + k.val) 0

/-- `Split(B)`: "`len/16` blocks in order" (R201). -/
def split (b : List Byte) : List Block := (List.range (b.length / 16)).map (blockOf b)

/-- `Merge(blocks)`: "concatenation in order" (R201). -/
def merge (blocks : List Block) : List Byte := blocks.flatMap Vector.toList

/-- The byte offset `16n` of block n, "formed by the command's rule, not the decoder" (spec/30_encoding.md R106). -/
def blockOffset (n : Nat) : Nat := 16 * n

end Sys2Proof.Machine
end

