-- ==== Sys2Proof/Machine/Flags.lean ====
section
/-! DEFINITION. The engine's flags: BUSY, DONE, ERRCODE (spec/10_state.md R35), the error codes
(spec/60_exceptions.md R261), and the packing of the STATUS and PARAM registers (spec/10_state.md R42, R43). -/

namespace Sys2Proof.Machine

/-- The code of an error as ERRCODE shows it (R261). -/
def errorCode : CmdError → Byte
  | .invalidKeyLength => 0x01
  | .invalidInputLength => 0x02
  | .missingIv => 0x03
  | .invalidPadding => 0x04
  | .illegalCommand => 0x10
  | .noSchedule => 0x11
  | .operandRange => 0x12
  | .bufferOverflow => 0x13

/-- STATUS: ERRCODE 15:8, SCHED_VAR 5:4, SCHED_VALID 2, DONE 1, BUSY 0, the rest 0 (R42). -/
def statusWord (s : State) : Word :=
  0#16 ++ s.errcode ++ 0#2 ++ s.schedVar ++ 0#1 ++ BitVec.ofBool s.schedValid ++ BitVec.ofBool s.done ++
    BitVec.ofBool s.busy

/-- PARAM as read: IVP in bit 8, KEYLEN in 5:0, the rest 0 (R43). -/
def paramWord (s : State) : Word := 0#23 ++ BitVec.ofBool s.ivp ++ 0#2 ++ s.keylen

/-- A write of PARAM: `KEYLEN <- v[5:0]; IVP <- v[8]` (R43). -/
def setParam (s : State) (v : Word) : State := { s with keylen := v.extractLsb' 0 6, ivp := v.getLsbD 8 }

/-- The flags at launch: `LASTCMD <- v; BUSY <- 1; DONE <- 0; ERRCODE <- 0` (spec/30_encoding.md R101). -/
def launchFlags (s : State) (v : Word) : State :=
  { s with lastcmd := v, busy := true, done := false, errcode := 0 }

/-- The flags at completion with a code: `ERRCODE <- code; BUSY <- 0; DONE <- 1; SEQ <- IDLE`
(spec/60_exceptions.md R269, R270). -/
def completeFlags (s : State) (code : Byte) : State :=
  { s with errcode := code, busy := false, done := true, seq := .idle }

end Sys2Proof.Machine
end

