-- ==== Sys2Proof/Machine/Ops.lean ====
section
/-! DEFINITION. The named operations over the buffers and the registers, and the two ways a command ends: without an
error and with one (spec/60_exceptions.md R269 to R271). -/

namespace Sys2Proof.Machine

/-! ## Buffers -/

/-- From `lo` on, the canonical form: offsets strictly rising, no byte 0. -/
def Memory.wfFrom (lo : Nat) : Memory → Bool
  | [] => true
  | (a, b) :: m => decide (lo ≤ a) && b != 0 && Memory.wfFrom (a + 1) m

/-- The one canonical form of a buffer. -/
def Memory.wf (m : Memory) : Bool := Memory.wfFrom 0 m

/-- Every listed offset is below n. -/
def Memory.below (n : Nat) (m : Memory) : Bool := m.all fun c => decide (c.1 < n)

/-- The byte at an offset; an unlisted offset reads as 0 (spec/10_state.md R64). -/
def Memory.read : Memory → Nat → Byte
  | [], _ => 0
  | (x, y) :: m, a => if x = a then y else Memory.read m a

/-- A byte stored at an offset; storing 0 removes the entry. -/
def Memory.write : Memory → Nat → Byte → Memory
  | [], a, b => if b = 0 then [] else [(a, b)]
  | (x, y) :: m, a, b =>
    if a < x then (if b = 0 then (x, y) :: m else (a, b) :: (x, y) :: m)
    else if a = x then (if b = 0 then m else (a, b) :: m)
    else (x, y) :: Memory.write m a b

/-- Bytes stored at consecutive offsets from a. -/
def Memory.writeBytes : Memory → Nat → List Byte → Memory
  | m, _, [] => m
  | m, a, b :: bs => Memory.writeBytes (Memory.write m a b) (a + 1) bs

/-- The n bytes at consecutive offsets from a. -/
def Memory.readBytes (m : Memory) (a n : Nat) : List Byte := (List.range n).map fun j => Memory.read m (a + j)

/-- Zero at and above offset n, unchanged below. -/
def Memory.keepBelow (m : Memory) (n : Nat) : Memory := m.filter fun c => decide (c.1 < n)

/-- The buffer that holds a byte sequence from offset 0 and is zero above it. -/
def Memory.ofBytes (bs : List Byte) : Memory := Memory.writeBytes [] 0 bs

/-- The word at byte offset a (spec/10_state.md R53). -/
def Memory.readWord (m : Memory) (a : Nat) : Word :=
  be32 (Memory.read m a) (Memory.read m (a + 1)) (Memory.read m (a + 2)) (Memory.read m (a + 3))

/-- A word stored at byte offset a (spec/10_state.md R53). -/
def Memory.writeWord (m : Memory) (a : Nat) (v : Word) : Memory := Memory.writeBytes m a (wordBytes v)

/-- The linear block at byte offset a. -/
def Memory.readBlock (m : Memory) (a : Nat) : Block := Vector.ofFn fun k => Memory.read m (a + k.val)

/-- A linear block stored at byte offset a. -/
def Memory.writeBlock (m : Memory) (a : Nat) (b : Block) : Memory := Memory.writeBytes m a b.toList

/-! ## Registers -/

/-- MAXLEN of this engine (spec/00_scope.md R7). -/
def State.maxLen (s : State) : Nat := s.cfg.maxLen

/-- `IN[j]`. -/
def State.inByte (s : State) (j : Nat) : Byte := Memory.read s.inBuf j

/-- `OUT[j]`. -/
def State.outByte (s : State) (j : Nat) : Byte := Memory.read s.outBuf j

/-- The message `IN[0 .. LEN)` (spec/10_state.md R30). -/
def State.message (s : State) : List Byte := Memory.readBytes s.inBuf 0 s.len.toNat

/-- The result `OUT[0 .. OUTLEN)` (spec/10_state.md R32). -/
def State.result (s : State) : List Byte := Memory.readBytes s.outBuf 0 s.outlen.toNat

/-- `KEY[0 .. KeyLen(v))`, the part of KEY a variant uses (spec/10_state.md R21). -/
def State.keyBytes (s : State) (x : Variant) : List Byte := s.key.toList.take (keyLen x)

/-- The key is consumed: `KEY[0..31] <- 0; KEYLEN <- 0` (spec/41_key_schedule.md R156). -/
def State.consumeKey (s : State) : State := { s with key := Vector.replicate 32 0, keylen := 0 }

/-- What a whole-message command zeroes, however it ends: KEY, KEYLEN, IV, IVP, W, SCHED_VALID, SCHED_VAR, S, CHAIN
(spec/44_mode_controller.md R233). -/
def State.wipeSecrets (s : State) : State :=
  { s with
    key := Vector.replicate 32 0, keylen := 0, iv := Vector.replicate 16 0, ivp := false,
    w := Vector.replicate 60 0, schedValid := false, schedVar := 0,
    st := Vector.replicate 4 (Vector.replicate 4 0), chain := Vector.replicate 16 0 }

/-- The result replaced: `OUT[0 .. len) <- r`, OUT zero above, `OUTLEN <- len` (spec/44_mode_controller.md R231). -/
def State.setResult (s : State) (r : List Byte) : State :=
  { s with outBuf := Memory.ofBytes r, outlen := BitVec.ofNat 32 r.length }

/-- No result: `OUT[j] <- 0` for all j, `OUTLEN <- 0` (spec/60_exceptions.md R271). -/
def State.noResult (s : State) : State := { s with outBuf := [], outlen := 0 }

/-- A schedule for a variant is in W: `SCHED_VALID <- 1; SCHED_VAR <- v` (spec/41_key_schedule.md R156). -/
def State.setSchedule (s : State) (x : Variant) (w : Schedule) : State :=
  { s with w := w, schedValid := true, schedVar := x.code }

/-- A new state register. -/
def State.setSt (s : State) (m : Mat) : State := { s with st := m }

/-- A new chaining register. -/
def State.setChain (s : State) (b : Block) : State := { s with chain := b }

/-! ## How a command ends -/

/-- `complete`: the command ends without error (spec/60_exceptions.md R269). -/
def State.complete (s : State) : Host.Outcome State Fault Refusal := .next (completeFlags s 0)

/-- `raise E`: the command ends with error E (spec/60_exceptions.md R270). This is the engine's one way to take an
exception: ERRCODE takes the code, BUSY, DONE and SEQ are as at any completion, and nothing else is saved (LASTCMD
holds the word since the launch). It is applied to the state at launch with the error effects of R271 for the command,
so no other effect of the command is visible. There is no return operation: "There is no return command and nothing to
return to" (R274). -/
def State.raise (s : State) (e : CmdError) : Host.Outcome State Fault Refusal := .next (completeFlags s (errorCode e))

end Sys2Proof.Machine
end

