-- ==== Sys2Proof/Machine/Gf.lean ====
section
/-! DEFINITION. GF(2^8) and the constant tables (spec/40_gf_tables.md). -/

namespace Sys2Proof.Machine

/-! ## The multiplier -/

/-- n of the 8 steps of the multiplier, on p, a, b (R132): `if b[0] = 1: p <- p ^ a`, then a doubled with the
reduction constant 0x1B on overflow of its top bit, then b shifted right. -/
def gfSteps : Nat → Byte → Byte → Byte → Byte
  | 0, p, _, _ => p
  | n + 1, p, a, b =>
    gfSteps n (if b.getLsbD 0 then p ^^^ a else p)
      (if a.getLsbD 7 then (a <<< 1) ^^^ 0x1B#8 else a <<< 1) (b >>> 1)

/-- `GfMul(a, b)`, `a (*) b` (R131), by the loop of R132 (log 9). -/
def gfMul (a b : Byte) : Byte := gfSteps 8 0 a b

/-- The carry-less product of two bytes as polynomials over GF(2), before reduction (R131): the sum of
`a · x^i` over the set bits i of b. -/
def polyMul (a b : Byte) : BitVec 16 :=
  (List.range 8).foldl (fun p i => if b.getLsbD i then p ^^^ (a.setWidth 16 <<< i) else p) 0

/-- A polynomial of degree below 16 reduced modulo `x^8+x^4+x^3+x+1`, bit pattern 0x11B (R131): from the top, each set
bit 8 + i is cancelled with `0x11B · x^i`. -/
def polyMod (p : BitVec 16) : Byte :=
  ((List.range 8).reverse.foldl (fun q i => if q.getLsbD (8 + i) then q ^^^ (0x11B#16 <<< i) else q) p).setWidth 8

/-! ## The tables (R135, R136, R137) -/

/-- Entry b of a table of 256 bytes written as eight lines of 32 bytes in index order. -/
def tableByte (rows : List Nat) (b : Byte) : Byte :=
  BitVec.ofNat 8 (rows.getD (b.toNat / 32) 0 >>> (8 * (31 - b.toNat % 32)))

/-- Sbox "as 256 bytes in index order 0x00 to 0xFF, 32 per line" (R135, log 12). -/
def sboxRows : List Nat :=
  [0x637c777bf26b6fc53001672bfed7ab76ca82c97dfa5947f0add4a2af9ca472c0,
   0xb7fd9326363ff7cc34a5e5f171d8311504c723c31896059a071280e2eb27b275,
   0x09832c1a1b6e5aa0523bd6b329e32f8453d100ed20fcb15b6acbbe394a4c58cf,
   0xd0efaafb434d338545f9027f503c9fa851a3408f929d38f5bcb6da2110fff3d2,
   0xcd0c13ec5f974417c4a77e3d645d197360814fdc222a908846eeb814de5e0bdb,
   0xe0323a0a4906245cc2d3ac629195e479e7c8376d8dd54ea96c56f4ea657aae08,
   0xba78252e1ca6b4c6e8dd741f4bbd8b8a703eb5664803f60e613557b986c11d9e,
   0xe1f8981169d98e949b1e87e9ce5528df8ca1890dbfe6426841992d0fb054bb16]

/-- InvSbox as 256 bytes in index order (R136). -/
def invSboxRows : List Nat :=
  [0x52096ad53036a538bf40a39e81f3d7fb7ce339829b2fff87348e4344c4dee9cb,
   0x547b9432a6c2233dee4c950b42fac34e082ea16628d924b2765ba2496d8bd125,
   0x72f8f66486689816d4a45ccc5d65b6926c704850fdedb9da5e154657a78d9d84,
   0x90d8ab008cbcd30af7e45805b8b34506d02c1e8fca3f0f02c1afbd0301138a6b,
   0x3a9111414f67dcea97f2cfcef0b4e67396ac7422e7ad3585e2f937e81c75df6e,
   0x47f11a711d29c5896fb7620eaa18be1bfc563e4bc6d279209adbc0fe78cd5af4,
   0x1fdda8338807c731b11210592780ec5f60517fa919b54a0d2de57a9f93c99cef,
   0xa0e03b4dae2af5b0c8ebbb3c83539961172b047eba77d626e169146355210c7d]

/-- `Sbox(b)` (R135). -/
def sbox (b : Byte) : Byte := tableByte sboxRows b

/-- `InvSbox(b)` (R136). -/
def invSbox (b : Byte) : Byte := tableByte invSboxRows b

/-- `rc(j)`: `rc(1) = 0x01`, `rc(j+1) = 0x02 (*) rc(j)` (R137). Index 0 "is never used and has no value"; no command
reaches it or an index above 10. -/
def rc : Nat → Byte
  | 0 => 0
  | 1 => 0x01
  | j + 2 => gfMul 0x02 (rc (j + 1))

/-- `Rcon(j) = BE32(rc(j), 0x00, 0x00, 0x00)` (R137). -/
def rcon (j : Nat) : Word := be32 (rc j) 0 0 0

/-! ## GFMUL -/

/-- GFMUL a, b: `GFR <- GfMul(a, b); complete` (R139). -/
def execGfmul (a b : Byte) (s : State) : Host.Outcome State Fault Refusal :=
  State.complete { s with gfr := gfMul a b }

end Sys2Proof.Machine
end

