-- ==== Sys2Proof/Machine/KeySchedule.lean ====
section
/-! DEFINITION. The key schedule expander and EXPAND (spec/41_key_schedule.md). -/

namespace Sys2Proof.Machine

/-- `RotWord(BE32(b0, b1, b2, b3)) = BE32(b1, b2, b3, b0)` (R153). -/
def rotWord (x : Word) : Word := be32 (byteOf x 1) (byteOf x 2) (byteOf x 3) (byteOf x 0)

/-- `SubWord` "applies the forward S-box to each of the 4 bytes independently" (R154). -/
def subWord (x : Word) : Word :=
  be32 (sbox (byteOf x 0)) (sbox (byteOf x 1)) (sbox (byteOf x 2)) (sbox (byteOf x 3))

/-- T for word i, from the word before it (R151). -/
def scheduleTerm (nk i : Nat) (prev : Word) : Word :=
  if i % nk = 0 then subWord (rotWord prev) ^^^ rcon (i / nk)
  else if nk = 8 ∧ i % nk = 4 then subWord prev
  else prev

/-- n further words appended to the words produced so far, in increasing index (R151, R152): `w[i] <- w[i-Nk] ^ T`. -/
def expandFrom (nk : Nat) : Nat → List Word → List Word
  | 0, ws => ws
  | n + 1, ws =>
    let i := ws.length
    expandFrom nk n (ws ++ [ws.getD (i - nk) 0 ^^^ scheduleTerm nk i (ws.getD (i - 1) 0)])

/-- The first Nk words are the key itself: `w[i] <- BE32(K[4i], ..., K[4i+3])` (R151). -/
def keyWords (k : List Byte) (nk : Nat) : List Word :=
  (List.range nk).map fun i =>
    be32 (k.getD (4 * i) 0) (k.getD (4 * i + 1) 0) (k.getD (4 * i + 2) 0) (k.getD (4 * i + 3) 0)

/-- `Expand(K, Nk, Nr)`: the words `w[0 .. 4(Nr+1))` (R151). -/
def expand (k : List Byte) (nk nr : Nat) : List Word := expandFrom nk (4 * (nr + 1) - nk) (keyWords k nk)

/-- The W file after an expansion: `W[i] = w[i]` below NW and 0 from NW on (R155). -/
def schedule (x : Variant) (k : List Byte) : Schedule :=
  Vector.ofFn fun i => (expand k (nk x) (nr x)).getD i.val 0

/-- EXPAND of a variant (R156): the key length is checked, the key expanded, and the key consumed either way (R271). -/
def expandCommand (x : Variant) (s : State) : Host.Outcome State Fault Refusal :=
  if s.keylen.toNat ≠ keyLen x then s.consumeKey.raise .invalidKeyLength
  else (s.setSchedule x (schedule x (s.keyBytes x))).consumeKey.complete

/-- EXPAND.128 (R156). -/
def execExpand128 (s : State) : Host.Outcome State Fault Refusal := expandCommand .v128 s

/-- EXPAND.192 (R156). -/
def execExpand192 (s : State) : Host.Outcome State Fault Refusal := expandCommand .v192 s

/-- EXPAND.256 (R156). -/
def execExpand256 (s : State) : Host.Outcome State Fault Refusal := expandCommand .v256 s

end Sys2Proof.Machine
end

