-- ==== Sys2Proof/Machine/Rounds.lean ====
section
/-! DEFINITION. The round pipeline, forward and inverse, and its commands (spec/42_round_pipeline.md). -/

namespace Sys2Proof.Machine

/-! ## The transformations -/

/-- `SubBytes(s)[r][c] = Sbox(s[r][c])` (R170). -/
def subBytes (s : Mat) : Mat := Mat.ofFn fun r c => sbox s[r][c]

/-- `InvSubBytes(s)[r][c] = InvSbox(s[r][c])` (R172). -/
def invSubBytes (s : Mat) : Mat := Mat.ofFn fun r c => invSbox s[r][c]

/-- `ShiftRows(s)[r][c] = s[r][(c + r) mod 4]` (R174). -/
def shiftRows (s : Mat) : Mat := Mat.ofFn fun r c => s[r][(c.val + r.val) % 4]

/-- `InvShiftRows(s)[r][c] = s[r][(c + 4 - r) mod 4]` (R176). -/
def invShiftRows (s : Mat) : Mat := Mat.ofFn fun r c => s[r][(c.val + 4 - r.val) % 4]

/-- The coefficient list of the forward matrix, `m = (02, 03, 01, 01)` (R178). -/
def mixList : Vector Byte 4 := #v[0x02, 0x03, 0x01, 0x01]

/-- The coefficient list of the inverse matrix, `im = (0e, 0b, 0d, 09)` (R180). -/
def invMixList : Vector Byte 4 := #v[0x0e, 0x0b, 0x0d, 0x09]

/-- Entry (r, k) of the matrix whose row r is the list rotated right by r: `m[(k - r) mod 4]` (R178, R180). -/
def circulant (m : Vector Byte 4) (r k : Fin 4) : Byte := m[(k.val + 4 - r.val) % 4]

/-- Each column replaced by its product with a matrix on the left:
`s'[r][c]` is the sum over k of `M[r][k] (*) s[k][c]` (R178). -/
def mulColumns (m : Vector Byte 4) (s : Mat) : Mat :=
  Mat.ofFn fun r c =>
    gfMul (circulant m r 0) s[0][c] ^^^ gfMul (circulant m r 1) s[1][c] ^^^
      gfMul (circulant m r 2) s[2][c] ^^^ gfMul (circulant m r 3) s[3][c]

/-- `MixColumns(s)` (R178). -/
def mixColumns (s : Mat) : Mat := mulColumns mixList s

/-- `InvMixColumns(s)` (R180). -/
def invMixColumns (s : Mat) : Mat := mulColumns invMixList s

/-- `AddRoundKey(s, w, r)[k][c] = s[k][c] ^ Byte(w[4r + c], k)` (R183). -/
def addRoundKey (s : Mat) (w : Schedule) (r : Nat) : Mat :=
  Mat.ofFn fun k c => s[k][c] ^^^ byteOf (w.getD (4 * r + c.val) 0) k.val

/-! ## The block transforms -/

/-- A middle round of the forward transform: SubBytes, ShiftRows, MixColumns, AddRoundKey(r) (R185). -/
def fwdRound (w : Schedule) (s : Mat) (r : Nat) : Mat := addRoundKey (mixColumns (shiftRows (subBytes s))) w r

/-- `FwdState(s, w, Nr)`: AddRoundKey(0), the middle rounds 1 .. Nr-1, and the final round without MixColumns (R185). -/
def fwdState (s : Mat) (w : Schedule) (nr : Nat) : Mat :=
  addRoundKey (shiftRows (subBytes ((List.range' 1 (nr - 1)).foldl (fwdRound w) (addRoundKey s w 0)))) w nr

/-- A middle round of the inverse transform: AddRoundKey(r), InvMixColumns, InvShiftRows, InvSubBytes (R188). -/
def invRound (w : Schedule) (s : Mat) (r : Nat) : Mat :=
  invSubBytes (invShiftRows (invMixColumns (addRoundKey s w r)))

/-- `InvState(s, w, Nr)`: the forward transform reversed step by step, each step replaced by its inverse (R188). -/
def invState (s : Mat) (w : Schedule) (nr : Nat) : Mat :=
  addRoundKey
    ((List.range' 1 (nr - 1)).reverse.foldl (invRound w) (invSubBytes (invShiftRows (addRoundKey s w nr)))) w 0

/-- `Forward(L, w, Nr)` on a linear block (R185). -/
def forward (l : Block) (w : Schedule) (nr : Nat) : Block := toLinear (fwdState (toState l) w nr)

/-- `Inverse(L, w, Nr)` on a linear block (R188). -/
def inverse (l : Block) (w : Schedule) (nr : Nat) : Block := toLinear (invState (toState l) w nr)

/-! ## The commands -/

/-- SUBBYTES: `S <- SubBytes(S); complete` (R171). -/
def execSubBytes (s : State) : Host.Outcome State Fault Refusal := (s.setSt (subBytes s.st)).complete

/-- INVSUBBYTES: `S <- InvSubBytes(S); complete` (R173). -/
def execInvSubBytes (s : State) : Host.Outcome State Fault Refusal := (s.setSt (invSubBytes s.st)).complete

/-- SHIFTROWS: `S <- ShiftRows(S); complete` (R175). -/
def execShiftRows (s : State) : Host.Outcome State Fault Refusal := (s.setSt (shiftRows s.st)).complete

/-- INVSHIFTROWS: `S <- InvShiftRows(S); complete` (R177). -/
def execInvShiftRows (s : State) : Host.Outcome State Fault Refusal := (s.setSt (invShiftRows s.st)).complete

/-- MIXCOLUMNS: `S <- MixColumns(S); complete` (R179). -/
def execMixColumns (s : State) : Host.Outcome State Fault Refusal := (s.setSt (mixColumns s.st)).complete

/-- INVMIXCOLUMNS: `S <- InvMixColumns(S); complete` (R181). -/
def execInvMixColumns (s : State) : Host.Outcome State Fault Refusal := (s.setSt (invMixColumns s.st)).complete

/-- ADDROUNDKEY r: NoSchedule, then OperandRange, then `S <- AddRoundKey(S, W, r)` (R184). -/
def execAddRoundKey (r : Nat) (s : State) : Host.Outcome State Fault Refusal :=
  if s.schedValid = false then s.raise .noSchedule
  else if r > nrOfCode s.schedVar then s.raise .operandRange
  else (s.setSt (addRoundKey s.st s.w r)).complete

/-- ENCBLK: `S <- FwdState(S, W, Nr(SCHED_VAR))` (R187). -/
def execEncBlk (s : State) : Host.Outcome State Fault Refusal :=
  if s.schedValid = false then s.raise .noSchedule
  else (s.setSt (fwdState s.st s.w (nrOfCode s.schedVar))).complete

/-- DECBLK: `S <- InvState(S, W, Nr(SCHED_VAR))` (R190). -/
def execDecBlk (s : State) : Host.Outcome State Fault Refusal :=
  if s.schedValid = false then s.raise .noSchedule
  else (s.setSt (invState s.st s.w (nrOfCode s.schedVar))).complete

end Sys2Proof.Machine
end

