-- ==== Sys2Proof/Machine/Buffers.lean ====
section
/-! DEFINITION. PKCS#7 padding, and the block load and store commands (spec/43_padding_segmentation.md). -/

namespace Sys2Proof.Machine

/-! ## Padding -/

/-- `p <- 16 - (len mod 16)`, 1 <= p <= 16 (R203). -/
def padCount (len : Nat) : Nat := 16 - len % 16

/-- The p padding bytes, "each holding that count's value" (R203). -/
def padBytes (len : Nat) : List Byte := List.replicate (padCount len) (BitVec.ofNat 8 (padCount len))

/-- `Pad(M)` (R203). -/
def pad (m : List Byte) : List Byte := m ++ padBytes m.length

/-- `Unpad(B)` (R205): `none` is InvalidPadding. The check is strict: all of the last p bytes are compared (R206). -/
def unpad (b : List Byte) : Option (List Byte) :=
  match b.getLast? with
  | none => none
  | some q =>
    if q.toNat = 0 ∨ q.toNat > 16 ∨ q.toNat > b.length then none
    else if (b.drop (b.length - q.toNat)).all (· == q) then some (b.take (b.length - q.toNat))
    else none

/-! ## The commands -/

/-- PAD: the message in IN padded in place (R204). -/
def execPad (s : State) : Host.Outcome State Fault Refusal :=
  if s.len.toNat > s.maxLen then s.raise .bufferOverflow
  else if s.len.toNat + padCount s.len.toNat > s.maxLen then s.raise .bufferOverflow
  else State.complete
    { s with
      inBuf := Memory.writeBytes s.inBuf s.len.toNat (padBytes s.len.toNat),
      len := BitVec.ofNat 32 (s.len.toNat + padCount s.len.toNat) }

/-- UNPAD: the padding removed from `OUT[0 .. OUTLEN)`, the removed bytes zeroed; on failure no result (R207, R271). -/
def execUnpad (s : State) : Host.Outcome State Fault Refusal :=
  match unpad s.result with
  | none => s.noResult.raise .invalidPadding
  | some r => State.complete
    { s with
      outBuf := Memory.writeBytes s.outBuf r.length (List.replicate (s.outlen.toNat - r.length) 0),
      outlen := BitVec.ofNat 32 r.length }

/-- The checks of LDBLK and CHBLK on block n of IN, in order: `LEN > MAXLEN`, then `16n + 16 > LEN` (R210;
spec/44_mode_controller.md R222). -/
def inBlockError (n : Nat) (s : State) : Option CmdError :=
  if s.len.toNat > s.maxLen then some .bufferOverflow
  else if blockOffset n + 16 > s.len.toNat then some .operandRange
  else none

/-- LDBLK n: `S <- ToState(IN[16n .. 16n+15])` (R210). -/
def execLdBlk (n : Nat) (s : State) : Host.Outcome State Fault Refusal :=
  match inBlockError n s with
  | some e => s.raise e
  | none => (s.setSt (toState (Memory.readBlock s.inBuf (blockOffset n)))).complete

/-- STBLK n: `OUT[16n .. 16n+15] <- ToLinear(S)`, and OUTLEN grows to cover the block (R211). -/
def execStBlk (n : Nat) (s : State) : Host.Outcome State Fault Refusal :=
  if blockOffset n + 16 > s.maxLen then s.raise .operandRange
  else State.complete
    { s with
      outBuf := Memory.writeBlock s.outBuf (blockOffset n) (toLinear s.st),
      outlen := if s.outlen.toNat < blockOffset n + 16 then BitVec.ofNat 32 (blockOffset n + 16) else s.outlen }

end Sys2Proof.Machine
end

