-- ==== Sys2Proof/Machine/Chaining.lean ====
section
/-! DEFINITION. The chaining primitives CHIV, CHS, CHBLK and XCH (spec/44_mode_controller.md section 1). -/

namespace Sys2Proof.Machine

/-- CHIV: `if IVP = 0: raise MissingIV`, then `CHAIN <- IV` (R220). -/
def execChIv (s : State) : Host.Outcome State Fault Refusal :=
  if s.ivp = false then s.raise .missingIv else (s.setChain s.iv).complete

/-- CHS: `CHAIN <- ToLinear(S)` (R221). -/
def execChS (s : State) : Host.Outcome State Fault Refusal := (s.setChain (toLinear s.st)).complete

/-- CHBLK n: `CHAIN <- IN[16n .. 16n+15]`, with the checks of LDBLK (R222). -/
def execChBlk (n : Nat) (s : State) : Host.Outcome State Fault Refusal :=
  match inBlockError n s with
  | some e => s.raise e
  | none => (s.setChain (Memory.readBlock s.inBuf (blockOffset n))).complete

/-- XCH: `S[r][c] <- S[r][c] ^ CHAIN[r + 4c]` (R223). -/
def execXch (s : State) : Host.Outcome State Fault Refusal :=
  (s.setSt (Mat.ofFn fun r c => s.st[r][c] ^^^ s.chain[r.val + 4 * c.val])).complete

end Sys2Proof.Machine
end

