-- ==== Sys2Proof/Machine/Messages.lean ====
section
/-! DEFINITION. The mode functions and the whole-message commands ENCRYPT and DECRYPT
(spec/44_mode_controller.md sections 2 and 3). -/

namespace Sys2Proof.Machine

/-! ## The mode functions -/

/-- `EcbEnc`: `C_i = Forward(P_i, w, Nr)` for every i (R224). -/
def ecbEnc (ps : List Block) (w : Schedule) (nr : Nat) : List Block := ps.map fun p => forward p w nr

/-- `EcbDec`: `Q_i = Inverse(C_i, w, Nr)` for every i (R224). -/
def ecbDec (cs : List Block) (w : Schedule) (nr : Nat) : List Block := cs.map fun c => inverse c w nr

/-- `CbcEnc` from the chaining register reg: `C_i <- Forward(P_i ^ reg)`, `reg <- C_i`, in order (R225). -/
def cbcEnc : List Block → Schedule → Nat → Block → List Block
  | [], _, _, _ => []
  | p :: ps, w, nr, reg =>
    forward (xorBlock p reg) w nr :: cbcEnc ps w nr (forward (xorBlock p reg) w nr)

/-- The combine phase of `CbcDec` from the chaining register reg, over the pairs (Y_i, C_i): `Q_i <- Y_i ^ reg`,
`reg <- C_i`, in order (R226). -/
def cbcCombine : List (Block × Block) → Block → List Block
  | [], _ => []
  | (y, c) :: rest, reg => xorBlock y reg :: cbcCombine rest c

/-- `CbcDec`: the transform phase, `Y_i <- Inverse(C_i)` for every i, then the combine phase (R226). -/
def cbcDec (cs : List Block) (w : Schedule) (nr : Nat) (iv : Block) : List Block :=
  cbcCombine ((ecbDec cs w nr).zip cs) iv

/-- `Enc(M, v, m, K, iv)`: the message padded, split, encrypted in the mode, merged (R229). -/
def enc (m : List Byte) (x : Variant) (y : Mode) (k : List Byte) (iv : Block) : List Byte :=
  match y with
  | .ecb => merge (ecbEnc (split (pad m)) (schedule x k) (nr x))
  | .cbc => merge (cbcEnc (split (pad m)) (schedule x k) (nr x) iv)

/-- The decrypted blocks of `Dec`, merged, before the padding is removed (R229). -/
def decPadded (c : List Byte) (x : Variant) (y : Mode) (k : List Byte) (iv : Block) : List Byte :=
  match y with
  | .ecb => merge (ecbDec (split c) (schedule x k) (nr x))
  | .cbc => merge (cbcDec (split c) (schedule x k) (nr x) iv)

/-- `Dec(C, v, m, K, iv)`: a byte sequence, or `none` for InvalidPadding (R229). -/
def dec (c : List Byte) (x : Variant) (y : Mode) (k : List Byte) (iv : Block) : Option (List Byte) :=
  unpad (decPadded c x y k iv)

/-! ## The whole-message commands -/

/-- A whole-message command ends with an error: no result, everything of R233 zeroed (spec/60_exceptions.md R271). -/
def failMessage (s : State) (e : CmdError) : Host.Outcome State Fault Refusal := s.noResult.wipeSecrets.raise e

/-- A whole-message command ends with a result: OUT and OUTLEN hold it, everything of R233 zeroed (R231, R232). -/
def endMessage (s : State) (r : List Byte) : Host.Outcome State Fault Refusal := (s.setResult r).wipeSecrets.complete

/-- ENCRYPT of a variant and a mode (R231). -/
def encryptCommand (x : Variant) (y : Mode) (s : State) : Host.Outcome State Fault Refusal :=
  if s.keylen.toNat ≠ keyLen x then failMessage s .invalidKeyLength
  else if y = .cbc ∧ s.ivp = false then failMessage s .missingIv
  else if s.len.toNat ≥ s.maxLen then failMessage s .bufferOverflow
  else endMessage s (enc s.message x y (s.keyBytes x) s.iv)

/-- DECRYPT of a variant and a mode (R232). -/
def decryptCommand (x : Variant) (y : Mode) (s : State) : Host.Outcome State Fault Refusal :=
  if s.keylen.toNat ≠ keyLen x then failMessage s .invalidKeyLength
  else if s.len.toNat % 16 ≠ 0 then failMessage s .invalidInputLength
  else if y = .cbc ∧ s.ivp = false then failMessage s .missingIv
  else if s.len.toNat > s.maxLen then failMessage s .bufferOverflow
  else
    match dec s.message x y (s.keyBytes x) s.iv with
    | none => failMessage s .invalidPadding
    | some r => endMessage s r

/-- ENCRYPT.128.ECB (R231). -/
def execEncrypt128Ecb (s : State) : Host.Outcome State Fault Refusal := encryptCommand .v128 .ecb s

/-- ENCRYPT.192.ECB (R231). -/
def execEncrypt192Ecb (s : State) : Host.Outcome State Fault Refusal := encryptCommand .v192 .ecb s

/-- ENCRYPT.256.ECB (R231). -/
def execEncrypt256Ecb (s : State) : Host.Outcome State Fault Refusal := encryptCommand .v256 .ecb s

/-- ENCRYPT.128.CBC (R231). -/
def execEncrypt128Cbc (s : State) : Host.Outcome State Fault Refusal := encryptCommand .v128 .cbc s

/-- ENCRYPT.192.CBC (R231). -/
def execEncrypt192Cbc (s : State) : Host.Outcome State Fault Refusal := encryptCommand .v192 .cbc s

/-- ENCRYPT.256.CBC (R231). -/
def execEncrypt256Cbc (s : State) : Host.Outcome State Fault Refusal := encryptCommand .v256 .cbc s

/-- DECRYPT.128.ECB (R232). -/
def execDecrypt128Ecb (s : State) : Host.Outcome State Fault Refusal := decryptCommand .v128 .ecb s

/-- DECRYPT.192.ECB (R232). -/
def execDecrypt192Ecb (s : State) : Host.Outcome State Fault Refusal := decryptCommand .v192 .ecb s

/-- DECRYPT.256.ECB (R232). -/
def execDecrypt256Ecb (s : State) : Host.Outcome State Fault Refusal := decryptCommand .v256 .ecb s

/-- DECRYPT.128.CBC (R232). -/
def execDecrypt128Cbc (s : State) : Host.Outcome State Fault Refusal := decryptCommand .v128 .cbc s

/-- DECRYPT.192.CBC (R232). -/
def execDecrypt192Cbc (s : State) : Host.Outcome State Fault Refusal := decryptCommand .v192 .cbc s

/-- DECRYPT.256.CBC (R232). -/
def execDecrypt256Cbc (s : State) : Host.Outcome State Fault Refusal := decryptCommand .v256 .cbc s

end Sys2Proof.Machine
end

