-- ==== Sys2Proof/Machine/Control.lean ====
section
/-! DEFINITION. The control commands NOP and CLEAR (spec/45_control.md section 1). -/

namespace Sys2Proof.Machine

/-- NOP: `complete` (R250). -/
def execNop (s : State) : Host.Outcome State Fault Refusal := s.complete

/-- Every register and buffer of CLEAR's list zeroed (R252). -/
def State.cleared (s : State) : State :=
  { s.wipeSecrets with gfr := 0, inBuf := [], len := 0, outBuf := [], outlen := 0 }

/-- CLEAR: "Returns the engine to its reset state, except that a command has completed" (R252). -/
def execClear (s : State) : Host.Outcome State Fault Refusal := s.cleared.complete

end Sys2Proof.Machine
end

