-- ==== Sys2Proof/Machine/Dispatch.lean ====
section
/-! DEFINITION. One arm per command: the meaning it runs on the state at launch (spec/30_encoding.md R101). -/

namespace Sys2Proof.Machine

def exec (i : Instr) (s : State) : Host.Outcome State Fault Refusal :=
  match i with
  | .nop => Sys2Proof.Machine.execNop s
  | .clear => Sys2Proof.Machine.execClear s
  | .gfmul a b => Sys2Proof.Machine.execGfmul a b s
  | .expand128 => Sys2Proof.Machine.execExpand128 s
  | .expand192 => Sys2Proof.Machine.execExpand192 s
  | .expand256 => Sys2Proof.Machine.execExpand256 s
  | .subBytes => Sys2Proof.Machine.execSubBytes s
  | .invSubBytes => Sys2Proof.Machine.execInvSubBytes s
  | .shiftRows => Sys2Proof.Machine.execShiftRows s
  | .invShiftRows => Sys2Proof.Machine.execInvShiftRows s
  | .mixColumns => Sys2Proof.Machine.execMixColumns s
  | .invMixColumns => Sys2Proof.Machine.execInvMixColumns s
  | .addRoundKey r => Sys2Proof.Machine.execAddRoundKey r s
  | .encBlk => Sys2Proof.Machine.execEncBlk s
  | .decBlk => Sys2Proof.Machine.execDecBlk s
  | .pad => Sys2Proof.Machine.execPad s
  | .unpad => Sys2Proof.Machine.execUnpad s
  | .ldBlk n => Sys2Proof.Machine.execLdBlk n s
  | .stBlk n => Sys2Proof.Machine.execStBlk n s
  | .chIv => Sys2Proof.Machine.execChIv s
  | .chS => Sys2Proof.Machine.execChS s
  | .chBlk n => Sys2Proof.Machine.execChBlk n s
  | .xch => Sys2Proof.Machine.execXch s
  | .encrypt128Ecb => Sys2Proof.Machine.execEncrypt128Ecb s
  | .encrypt192Ecb => Sys2Proof.Machine.execEncrypt192Ecb s
  | .encrypt256Ecb => Sys2Proof.Machine.execEncrypt256Ecb s
  | .encrypt128Cbc => Sys2Proof.Machine.execEncrypt128Cbc s
  | .encrypt192Cbc => Sys2Proof.Machine.execEncrypt192Cbc s
  | .encrypt256Cbc => Sys2Proof.Machine.execEncrypt256Cbc s
  | .decrypt128Ecb => Sys2Proof.Machine.execDecrypt128Ecb s
  | .decrypt192Ecb => Sys2Proof.Machine.execDecrypt192Ecb s
  | .decrypt256Ecb => Sys2Proof.Machine.execDecrypt256Ecb s
  | .decrypt128Cbc => Sys2Proof.Machine.execDecrypt128Cbc s
  | .decrypt192Cbc => Sys2Proof.Machine.execDecrypt192Cbc s
  | .decrypt256Cbc => Sys2Proof.Machine.execDecrypt256Cbc s

end Sys2Proof.Machine
end

