-- ==== Sys2Proof/Machine/Bus.lean ====
section
/-! DEFINITION. The host's side: the address map, reads, writes, the launch of a command, the busy rules and reset
(spec/10_state.md section 2, spec/20_memory.md, spec/30_encoding.md R101, spec/70_reset_and_hazards.md R290). -/

namespace Sys2Proof.Machine

/-- What a mapped word address names (spec/10_state.md R40, spec/20_memory.md R70). A buffer word is named by the byte
offset of its first byte. -/
inductive Target where
  | cmd
  | status
  | param
  | len
  | outlen
  | gfr
  | lastcmd
  | key (k : Nat)
  | iv (k : Nat)
  | st (k : Fin 4)
  | chain (k : Nat)
  | w (k : Nat)
  | inWord (offset : Nat)
  | outWord (offset : Nat)
  deriving DecidableEq, Repr

/-- The first byte address of the input buffer (R70). -/
def inBase : Nat := 0x100000

/-- The first byte address of the output buffer (R70). -/
def outBase : Nat := 0x200000

/-- The target of a 4-byte-aligned byte address; none is unmapped (R40, R70). -/
def targetAt (maxLen a : Nat) : Option Target :=
  if a = 0x000 then some .cmd
  else if a = 0x004 then some .status
  else if a = 0x008 then some .param
  else if a = 0x00C then some .len
  else if a = 0x010 then some .outlen
  else if a = 0x014 then some .gfr
  else if a = 0x018 then some .lastcmd
  else if 0x020 ≤ a ∧ a < 0x040 then some (.key ((a - 0x020) / 4))
  else if 0x040 ≤ a ∧ a < 0x050 then some (.iv ((a - 0x040) / 4))
  else if 0x050 ≤ a ∧ a < 0x060 then some (.st (Fin.ofNat 4 ((a - 0x050) / 4)))
  else if 0x060 ≤ a ∧ a < 0x070 then some (.chain ((a - 0x060) / 4))
  else if 0x100 ≤ a ∧ a < 0x1F0 then some (.w ((a - 0x100) / 4))
  else if inBase ≤ a ∧ a < inBase + maxLen then some (.inWord (a - inBase))
  else if outBase ≤ a ∧ a < outBase + maxLen then some (.outWord (a - outBase))
  else none

/-- The target of an access, none where the bus refuses it: the address is not a multiple of 4, the width is not 4
bytes, or the address is not mapped (R75). -/
def accessTarget (s : State) (addr : Addr) (width : Nat) : Option Target :=
  if width = 4 ∧ addr.toNat % 4 = 0 then targetAt s.maxLen addr.toNat else none

/-! ## Reads -/

/-- The value a read of a target returns when the engine is idle (spec/10_state.md R41 to R53). CMD and KEYk are
write-only and read 0 (R40). -/
def targetValue (s : State) : Target → Word
  | .cmd => 0
  | .status => statusWord s
  | .param => paramWord s
  | .len => s.len
  | .outlen => s.outlen
  | .gfr => s.gfr.setWidth 32
  | .lastcmd => s.lastcmd
  | .key _ => 0
  | .iv k => wordAt s.iv k
  | .st k => columnWord s.st k
  | .chain k => wordAt s.chain k
  | .w k => s.w.getD k 0
  | .inWord a => Memory.readWord s.inBuf a
  | .outWord a => Memory.readWord s.outBuf a

/-- The answer to a read (R72). While `BUSY = 1` only STATUS reads true, any other mapped address reads 0 (R85). -/
def busRead (s : State) (addr : Addr) (width : Nat) : Answer :=
  match accessTarget s addr width with
  | none => .busError
  | some t => if s.busy && decide (t ≠ .status) then .data 0 else .data (targetValue s t)

/-! ## Launch -/

/-- The launch of a command word (spec/30_encoding.md R101). An illegal word completes at once with IllegalCommand
(R109; spec/60_exceptions.md R262). A legal command runs until its completion, which comes after the next number of
host operations listed in `delays` (log 3); that it is running is SEQ. -/
def launch (s : State) (v : Word) : State :=
  match decode v with
  | .error _ => completeFlags (launchFlags s v) (errorCode .illegalCommand)
  | .ok _ => { launchFlags s v with seq := .running (s.delays.headD 0), delays := s.delays.tail }

/-- The engine as it stands just before a launched word runs, with no further host operation to come first. It is what
the host's question needs to have the very next step run a word (log 8). -/
def launchedNow (s : State) (v : Word) : State := { launchFlags s v with seq := .running 0 }

/-! ## Writes -/

/-- The effect of a write on an idle engine, by target (spec/45_control.md R254). A write to a read-only target changes
nothing (spec/10_state.md R40). -/
def writeTarget (s : State) (v : Word) : Target → State
  | .cmd => launch s v
  | .param => setParam s v
  | .len => { s with len := v }
  | .key k => { s with key := setWordAt s.key k v }
  | .iv k => { s with iv := setWordAt s.iv k v }
  | .st k => { s with st := setColumn s.st k v }
  | .inWord a => { s with inBuf := Memory.writeWord s.inBuf a v }
  | .status | .outlen | .gfr | .lastcmd | .chain _ | .w _ | .outWord _ => s

/-- The answer to a write (R73). -/
def writeAnswer (s : State) (addr : Addr) (width : Nat) : Answer :=
  match accessTarget s addr width with
  | none => .busError
  | some _ => .ok

/-- The engine after a write: unchanged where the bus refuses it (R75) and while `BUSY = 1` (R85). -/
def busWrite (s : State) (addr : Addr) (width : Nat) (v : Word) : State :=
  match accessTarget s addr width with
  | none => s
  | some t => if s.busy then s else writeTarget s v t

/-! ## Host operations -/

/-- The byte address of STATUS (spec/10_state.md R42). -/
def statusAddr : Addr := 0x000004

/-- The byte address of OUTLEN (spec/10_state.md R45). -/
def outlenAddr : Addr := 0x000010

/-- BUSY, bit 0 of an answered STATUS word. -/
def answerBusy : Answer → Bool
  | .data v => v.getLsbD 0
  | .ok | .busError => false

/-- `ERRCODE = 0`, bits 15:8 of an answered STATUS word (spec/10_state.md R42). -/
def answerNoError : Answer → Bool
  | .data v => v.extractLsb' 8 8 == 0
  | .ok | .busError => false

/-- The reads of RDOUT after the read of OUTLEN: `RD 0x200000 + 4k` for k below ceil(OUTLEN/4)
(spec/30_encoding.md R112). -/
def readOutWords : Answer → List HostOp
  | .data v => (List.range ((v.toNat + 3) / 4)).map fun k => .read (BitVec.ofNat 24 (outBase + 4 * k)) 4
  | .ok | .busError => []

/-- The bus answers the host. -/
def answer (s : State) (rest : List HostOp) (a : Answer) : State := { s with pending := rest, answers := a :: s.answers }

/-- RDOUT: OUTLEN is read, and the reads of the words of OUT that hold the result come next (R112). -/
def readOut (s : State) (rest : List HostOp) : State :=
  answer s (readOutWords (busRead s outlenAddr 4) ++ rest) (busRead s outlenAddr 4)

/-- The end of a call (spec/45_control.md R256): RDOUT where the newest answer, the STATUS that WAIT ended with, shows
`ERRCODE = 0`, else no access, since that answer already names the error (log 13). -/
def readResult (s : State) (rest : List HostOp) : State :=
  if s.answers.head?.any answerNoError then readOut s rest else { s with pending := rest }

/-- Reset: every piece of the engine's state is zero (spec/10_state.md R64, spec/70_reset_and_hazards.md R290). The
parameters and the host's side are not the engine's state and stay (log 7). -/
def resetEngine (s : State) : State :=
  { State.resetFor s.cfg with pending := s.pending, answers := s.answers, delays := s.delays }

/-- The host's next operation takes effect. With none pending nothing happens: "the engine does nothing until the host
writes CMD" (spec/70_reset_and_hazards.md R291, log 10). WAIT stays pending while the STATUS it read shows BUSY
(spec/30_encoding.md R112). -/
def serve (s : State) : State :=
  match s.pending with
  | [] => s
  | .read addr width :: rest => answer s rest (busRead s addr width)
  | .write addr width v :: rest => answer (busWrite s addr width v) rest (writeAnswer s addr width)
  | .wait :: rest =>
    answer s (if answerBusy (busRead s statusAddr 4) then .wait :: rest else rest) (busRead s statusAddr 4)
  | .readOut :: rest => readOut s rest
  | .readResult :: rest => readResult s rest
  | .reset :: rest => { resetEngine s with pending := rest }

end Sys2Proof.Machine
end

