-- ==== Sys2Proof/Machine/HostOps.lean ====
section
/-! DEFINITION. The host's pseudo-operations as lists of host operations (spec/30_encoding.md R111, R112) and the
document's two calls (spec/45_control.md R256). Where R112 or R256 gives no expansion the model chooses one (log 17,
log 18). -/

namespace Sys2Proof.Machine

/-- `WR addr, value`. An address is one of the bus's 24-bit byte addresses (spec/20_memory.md R70). -/
def hostWrite (addr : Addr) (v : Word) : HostOp := .write addr 4 v

/-- `RD addr`. -/
def hostRead (addr : Addr) : HostOp := .read addr 4

/-- Word k of a byte sequence, missing bytes taken as 0 (LDMSG). -/
def wordOfBytes (bs : List Byte) (k : Nat) : Word :=
  be32 (bs.getD (4 * k) 0) (bs.getD (4 * k + 1) 0) (bs.getD (4 * k + 2) 0) (bs.getD (4 * k + 3) 0)

/-- A byte sequence written as words from a base address. The words that would lie at 2^24 or above, where the bus has
no address, are not written (log 18, DESIGN CHOICE: R112 says nothing of them). -/
def writeWords (base : Nat) (bs : List Byte) : List HostOp :=
  (List.range (min ((bs.length + 3) / 4) ((2 ^ 24 - base) / 4))).map fun k =>
    hostWrite (BitVec.ofNat 24 (base + 4 * k)) (wordOfBytes bs k)

/-- `SETPARAM keylen, ivp`: `WR 0x000008, (ivp << 8) | keylen`. -/
def setParamOps (keylen : BitVec 6) (ivp : Bool) : List HostOp :=
  [hostWrite 0x000008 (0#23 ++ BitVec.ofBool ivp ++ 0#2 ++ keylen)]

/-- `LDKEY b0 ... b(L-1)`. R112 gives it for L in 16, 24, 32 only. For any other L the model writes the words of the
first 32 bytes, missing bytes of the last word 0, so that nothing beyond KEY is written (log 17, DESIGN CHOICE). -/
def ldKeyOps (bs : List Byte) : List HostOp := writeWords 0x000020 (bs.take 32)

/-- `LDIV b0 ... b15`. -/
def ldIvOps (iv : Block) : List HostOp := writeWords 0x000040 iv.toList

/-- `LDSTATE b0 ... b15`. -/
def ldStateOps (l : Block) : List HostOp := writeWords 0x000050 l.toList

/-- The word LDMSG writes to LEN: the length, as R112 says. A length of 2^32 or more does not fit in LEN; the model
then writes the greatest word that agrees with it modulo 16, so that the checks of LEN end as they would for that
length (log 18, DESIGN CHOICE). -/
def lenWord (n : Nat) : Word := BitVec.ofNat 32 (if n < 2 ^ 32 then n else 2 ^ 32 - 16 + n % 16)

/-- `LDMSG b0 ... b(L-1)`: the words of IN, then LEN. -/
def ldMsgOps (bs : List Byte) : List HostOp := writeWords inBase bs ++ [hostWrite 0x00000C (lenWord bs.length)]

/-- `RDSTATE`: S0 to S3. -/
def rdStateOps : List HostOp := [hostRead 0x000050, hostRead 0x000054, hostRead 0x000058, hostRead 0x00005C]

/-- A command line: the write of its word to CMD, followed by the implied WAIT. -/
def commandOps (i : Instr) : List HostOp := [hostWrite 0x000000 (encode i), .wait]

/-- The KEYLEN a call declares for a key of n bytes: n, and 63 for a key above 63 bytes, "to have the engine report"
InvalidKeyLength (R256). That a driver does this, of the two ways R256 allows, is log 17. -/
def declaredKeyLen (n : Nat) : BitVec 6 := BitVec.ofNat 6 (min n 63)

/-- The operands of one of the document's two calls (R256): LDMSG, LDKEY, LDIV if an IV is given, SETPARAM. -/
def callOperands (m k : List Byte) (iv : Option Block) : List HostOp :=
  ldMsgOps m ++ ldKeyOps k ++ (match iv with | some b => ldIvOps b | none => []) ++
    setParamOps (declaredKeyLen k.length) iv.isSome

/-- `encrypt(message, variant, mode, key, iv?)` as host operations (R256). -/
def encryptCallOps (m : List Byte) (x : Variant) (y : Mode) (k : List Byte) (iv : Option Block) : List HostOp :=
  callOperands m k iv ++ commandOps (encryptInstr x y) ++ [.readResult]

/-- `decrypt(ciphertext, variant, mode, key, iv?)` as host operations (R256). -/
def decryptCallOps (c : List Byte) (x : Variant) (y : Mode) (k : List Byte) (iv : Option Block) : List HostOp :=
  callOperands c k iv ++ commandOps (decryptInstr x y) ++ [.readResult]

end Sys2Proof.Machine
end

