-- ==== Sys2Proof/Machine/Sequencer.lean ====
section
/-! DEFINITION. The controller's reference sequences (spec/44_mode_controller.md section 5): what the sequencer walks
through inside ENCRYPT and DECRYPT, block by block on the output buffer, with the working state T and the chaining
register reg as local values. The step does not use them (R244): they are the finer model a command is checked against.
Independent block transforms are done in batches of LANES (R236); the batches are an argument here, so that any
assignment of blocks to lanes and any order can be spoken of (log 5). -/

namespace Sys2Proof.Machine

/-- The batches LANES pipelines work through, in increasing block index: blocks `LANES·b .. LANES·b + LANES - 1` of the
N blocks in batch b (R236). -/
def laneBatches (cfg : Config) (n : Nat) : List (List Nat) :=
  (List.range ((n + cfg.lanes - 1) / cfg.lanes)).map fun b =>
    ((List.range cfg.lanes).map fun k => cfg.lanes * b + k).filter fun i => decide (i < n)

/-- The blocks of a padded message: `N <- LEN div 16 + 1` (R240). -/
def paddedBlocks (len : Nat) : Nat := len / 16 + 1

/-- Block i of the message with its padding generated on the way: `IN[16i+k]` if `16i+k < LEN`, else p (R240). -/
def paddedBlock (s : State) (i : Nat) : Block :=
  Vector.ofFn fun k =>
    if 16 * i + k.val < s.len.toNat then s.inByte (16 * i + k.val) else BitVec.ofNat 8 (padCount s.len.toNat)

/-- Block i of IN. -/
def inBlock (s : State) (i : Nat) : Block := Memory.readBlock s.inBuf (16 * i)

/-- Block i stored in OUT. -/
def storeBlock (out : Memory) (i : Nat) (b : Block) : Memory := Memory.writeBlock out (16 * i) b

/-- A batch of lanes, each storing the transform of its own block (spec/20_memory.md R89). -/
def runBatch (f : Nat → Block) (out : Memory) (batch : List Nat) : Memory :=
  batch.foldl (fun o i => storeBlock o i (f i)) out

/-- All batches, one after the other. -/
def runBatches (f : Nat → Block) (out : Memory) (batches : List (List Nat)) : Memory :=
  batches.foldl (runBatch f) out

/-- One block of the CBC encryption sequence (R241), on OUT and reg. -/
def cbcEncStep (s : State) (w : Schedule) (nr : Nat) (acc : Memory × Block) (i : Nat) : Memory × Block :=
  let t := fwdState (toState (xorBlock (paddedBlock s i) acc.2)) w nr
  (storeBlock acc.1 i (toLinear t), toLinear t)

/-- One block of the combine phase (R242): `OUT[16i+k] <- OUT[16i+k] ^ reg[k]`, `reg <- IN[16i .. 16i+15]`. -/
def combineStep (s : State) (acc : Memory × Block) (i : Nat) : Memory × Block :=
  (storeBlock acc.1 i (xorBlock (Memory.readBlock acc.1 (16 * i)) acc.2), inBlock s i)

/-- OUT after the block loop of ENCRYPT (R240 for ECB, R241 for CBC), before the bytes above it are zeroed. -/
def encryptLoop (s : State) (x : Variant) (y : Mode) (batches : List (List Nat)) : Memory :=
  let w := schedule x (s.keyBytes x)
  match y with
  | .ecb => runBatches (fun i => forward (paddedBlock s i) w (nr x)) s.outBuf batches
  | .cbc =>
    ((List.range (paddedBlocks s.len.toNat)).foldl (cbcEncStep s w (nr x)) (s.outBuf, s.iv)).1

/-- OUT after the transform phase of DECRYPT (R242, R243), and for CBC the combine phase (R242). -/
def decryptLoop (s : State) (x : Variant) (y : Mode) (batches : List (List Nat)) : Memory :=
  let w := schedule x (s.keyBytes x)
  let out := runBatches (fun i => inverse (inBlock s i) w (nr x)) s.outBuf batches
  match y with
  | .ecb => out
  | .cbc => ((List.range (s.len.toNat / 16)).foldl (combineStep s) (out, s.iv)).1

/-- The ENCRYPT sequence after its checks: the loop, `OUT[16N ..) <- 0`, `OUTLEN <- 16N`, the zeroing of R233
(R240, R241). -/
def encryptSequence (s : State) (x : Variant) (y : Mode) (batches : List (List Nat)) :
    Host.Outcome State Fault Refusal :=
  let n := paddedBlocks s.len.toNat
  ({ s with
      outBuf := Memory.keepBelow (encryptLoop s x y batches) (16 * n),
      outlen := BitVec.ofNat 32 (16 * n) } : State).wipeSecrets.complete

/-- The DECRYPT sequence after its checks: the loop, `Unpad(OUT[0 .. LEN))`; on failure the error effects; on success
the p padding bytes and the bytes from LEN up zeroed, `OUTLEN <- LEN - p`; the zeroing of R233 (R242, R243). -/
def decryptSequence (s : State) (x : Variant) (y : Mode) (batches : List (List Nat)) :
    Host.Outcome State Fault Refusal :=
  let out := decryptLoop s x y batches
  match unpad (Memory.readBytes out 0 s.len.toNat) with
  | none => failMessage s .invalidPadding
  | some r =>
    ({ s with
        outBuf := Memory.keepBelow
          (Memory.writeBytes out r.length (List.replicate (s.len.toNat - r.length) 0)) s.len.toNat,
        outlen := BitVec.ofNat 32 r.length } : State).wipeSecrets.complete

end Sys2Proof.Machine
end

