-- ==== Sys2Proof/Machine/Step.lean ====
section
/-! DEFINITION. One step of the engine and its host (log 2, log 3). -/

namespace Sys2Proof.Machine

/-- The launched command runs to its completion, as one atomic step (spec/44_mode_controller.md R244). The word is in
LASTCMD since the launch; an illegal word is completed at its launch already, and would complete here in the same way. -/
def finish (s : State) : Host.Outcome State Fault Refusal :=
  match decode s.lastcmd with
  | .error _ => s.raise .illegalCommand
  | .ok i => exec i s

/-- One step. A running engine with host operations left before its completion, and an idle engine, serve the host's
next operation; a running engine with none left completes its command. -/
def step (s : State) : Host.Outcome State Fault Refusal :=
  match s.seq with
  | .running 0 => finish s
  | .running (n + 1) => .next (serve { s with seq := .running n })
  | .idle => .next (serve s)

/-- The state with a table word launched, so that the very next step runs it (log 8). A command is one 32-bit word; the
bits above `nbits` are zero. -/
def State.withFetchWord (s : State) (nbits w : Nat) : State := launchedNow s (BitVec.ofNat 32 (w % 2 ^ nbits))

end Sys2Proof.Machine
end

