-- ==== Sys2Proof/Safety.lean ====
section
/-! DEFINITION. The terms in which claims are stated: what a command leaves unchanged, how it ended, what every step
keeps, and runs of several commands. -/

namespace Sys2Proof.Machine

/-! ## How a command ended -/

/-- The flags from the state s at launch to the state t at completion: ERRCODE is the code, BUSY 0, DONE 1, SEQ IDLE,
and LASTCMD as the launch left it (spec/10_state.md R35, R36; spec/60_exceptions.md R269, R270). -/
def EndsWith (s t : State) (code : Byte) : Prop :=
  t.errcode = code ∧ t.busy = false ∧ t.done = true ∧ t.seq = .idle ∧ t.lastcmd = s.lastcmd

/-! ## Unchanged parts of the state -/

/-- KEY and KEYLEN are unchanged. -/
def SameKey (s t : State) : Prop := t.key = s.key ∧ t.keylen = s.keylen

/-- IV and IVP are unchanged. -/
def SameIv (s t : State) : Prop := t.iv = s.iv ∧ t.ivp = s.ivp

/-- W, SCHED_VALID and SCHED_VAR are unchanged. -/
def SameSchedule (s t : State) : Prop := t.w = s.w ∧ t.schedValid = s.schedValid ∧ t.schedVar = s.schedVar

/-- Every byte of IN and LEN are unchanged. -/
def SameIn (s t : State) : Prop := (∀ j, t.inByte j = s.inByte j) ∧ t.len = s.len

/-- Every byte of OUT and OUTLEN are unchanged. -/
def SameOut (s t : State) : Prop := (∀ j, t.outByte j = s.outByte j) ∧ t.outlen = s.outlen

/-- The parameters and the host's side are unchanged. -/
def SameHost (s t : State) : Prop :=
  t.cfg = s.cfg ∧ t.pending = s.pending ∧ t.answers = s.answers ∧ t.delays = s.delays

/-- The frame of a command that writes S only: all else but the flags is unchanged. -/
def OnlySt (s t : State) : Prop :=
  SameKey s t ∧ SameIv s t ∧ t.chain = s.chain ∧ SameSchedule s t ∧ t.gfr = s.gfr ∧ SameIn s t ∧ SameOut s t ∧
    SameHost s t

/-- The frame of a command that writes CHAIN only. -/
def OnlyChain (s t : State) : Prop :=
  SameKey s t ∧ SameIv s t ∧ t.st = s.st ∧ SameSchedule s t ∧ t.gfr = s.gfr ∧ SameIn s t ∧ SameOut s t ∧ SameHost s t

/-- The frame of a command that writes GFR only. -/
def OnlyGfr (s t : State) : Prop :=
  SameKey s t ∧ SameIv s t ∧ t.st = s.st ∧ t.chain = s.chain ∧ SameSchedule s t ∧ SameIn s t ∧ SameOut s t ∧
    SameHost s t

/-- The frame of a command that writes IN and LEN only. -/
def OnlyIn (s t : State) : Prop :=
  SameKey s t ∧ SameIv s t ∧ t.st = s.st ∧ t.chain = s.chain ∧ SameSchedule s t ∧ t.gfr = s.gfr ∧ SameOut s t ∧
    SameHost s t

/-- The frame of a command that writes OUT and OUTLEN only. -/
def OnlyOut (s t : State) : Prop :=
  SameKey s t ∧ SameIv s t ∧ t.st = s.st ∧ t.chain = s.chain ∧ SameSchedule s t ∧ t.gfr = s.gfr ∧ SameIn s t ∧
    SameHost s t

/-- The frame of EXPAND when it succeeds: all but the key, the schedule and the flags is unchanged. -/
def OnlyKeyAndSchedule (s t : State) : Prop :=
  SameIv s t ∧ t.st = s.st ∧ t.chain = s.chain ∧ t.gfr = s.gfr ∧ SameIn s t ∧ SameOut s t ∧ SameHost s t

/-- Nothing but the flags changed. -/
def OnlyFlags (s t : State) : Prop := OnlySt s t ∧ t.st = s.st

/-- The frame of a whole-message command: "Not touched: `IN`, `LEN`, `GFR`" (spec/44_mode_controller.md R233). -/
def MessageFrame (s t : State) : Prop := t.gfr = s.gfr ∧ SameIn s t ∧ SameHost s t

/-- A host operation that is no write and no reset: every piece of the engine's state is unchanged but the count of
host operations left in SEQ. -/
def SameEngine (s t : State) : Prop :=
  { t with seq := s.seq, pending := s.pending, answers := s.answers } = s

/-- SEQ after one more host operation was served: one fewer is left before the completion (log 3). -/
def seqServed : Seq → Seq
  | .idle => .idle
  | .running n => .running (n - 1)

/-- The word addresses the bus maps, from the tables of spec/10_state.md R40 and spec/20_memory.md R70. -/
def Mapped (maxLen a : Nat) : Prop :=
  a ≤ 0x018 ∨ (0x020 ≤ a ∧ a ≤ 0x06C) ∨ (0x100 ≤ a ∧ a ≤ 0x1EC) ∨
    (0x100000 ≤ a ∧ a < 0x100000 + maxLen) ∨ (0x200000 ≤ a ∧ a < 0x200000 + maxLen)

/-! ## Zeroed parts -/

/-- KEY and KEYLEN are zero. -/
def KeyZero (t : State) : Prop := (∀ j : Fin 32, t.key[j] = 0) ∧ t.keylen = 0

/-- The list of spec/44_mode_controller.md R233 is zero. -/
def SecretsZero (t : State) : Prop :=
  KeyZero t ∧ (∀ j : Fin 16, t.iv[j] = 0) ∧ t.ivp = false ∧ (∀ k : Fin 60, t.w[k] = 0) ∧ t.schedValid = false ∧
    t.schedVar = 0 ∧ (∀ r c : Fin 4, t.st[r][c] = 0) ∧ ∀ j : Fin 16, t.chain[j] = 0

/-- OUT is all zero and OUTLEN is 0 (spec/60_exceptions.md R271). -/
def ResultZero (t : State) : Prop := (∀ j, t.outByte j = 0) ∧ t.outlen = 0

/-- Every piece of the engine's state is zero and SEQ is IDLE (spec/10_state.md R64). -/
def EngineZero (t : State) : Prop :=
  SecretsZero t ∧ t.gfr = 0 ∧ (∀ j, t.inByte j = 0) ∧ t.len = 0 ∧ ResultZero t ∧ t.busy = false ∧ t.done = false ∧
    t.errcode = 0 ∧ t.lastcmd = 0 ∧ t.seq = .idle

/-! ## What every step keeps -/

/-- The buffers: both in canonical form, nothing listed at or above MAXLEN, `OUTLEN <= MAXLEN` (spec/10_state.md R33)
and `OUT[j] = 0` for every j from OUTLEN on (R34). -/
structure BuffersOk (s : State) : Prop where
  inWf : Memory.wf s.inBuf = true
  outWf : Memory.wf s.outBuf = true
  inBelow : Memory.below s.maxLen s.inBuf = true
  outBelow : Memory.below s.maxLen s.outBuf = true
  outlenLe : s.outlen.toNat ≤ s.maxLen
  outZero : ∀ j, s.outlen.toNat ≤ j → s.outByte j = 0

/-- The schedule: with `SCHED_VALID = 1`, W is the schedule of some key of the variant SCHED_VAR; with
`SCHED_VALID = 0`, SCHED_VAR is 0 and W is zero (spec/10_state.md R28; spec/41_key_schedule.md R157). -/
structure ScheduleOk (s : State) : Prop where
  valid : s.schedValid = true →
    ∃ (x : Variant) (k : List Byte), k.length = keyLen x ∧ s.schedVar = x.code ∧ s.w = schedule x k
  invalid : s.schedValid = false → s.schedVar = 0 ∧ ∀ i : Fin 60, s.w[i] = 0

/-- The flags: BUSY exactly while SEQ is not IDLE (spec/10_state.md R62); a running command is a legal one and shows
neither DONE nor an error; an error shows only with DONE, and only as a code of spec/60_exceptions.md R261. -/
structure FlagsOk (s : State) : Prop where
  busySeq : s.busy = true ↔ s.seq ≠ .idle
  running : s.busy = true → s.done = false ∧ s.errcode = 0 ∧ ∃ i, decode s.lastcmd = .ok i
  codes : s.errcode = 0 ∨ (s.done = true ∧ ∃ e, s.errcode = errorCode e)

/-! ## Runs of commands -/

/-- Commands run one after the other, each on the state the one before it left. -/
def execAll : List Instr → State → Host.Outcome State Fault Refusal
  | [], s => .next s
  | i :: is, s =>
    match exec i s with
    | .next t => execAll is t
    | .fault r => .fault r
    | .refused r => .refused r

/-- `ARK 0; (SB; SR; MC; ARK r) for r = 1..Nr-1; SB; SR; ARK Nr` (spec/42_round_pipeline.md R187). -/
def encBlkSteps (nr : Nat) : List Instr :=
  [.addRoundKey 0] ++
    (List.range' 1 (nr - 1)).flatMap (fun r => [.subBytes, .shiftRows, .mixColumns, .addRoundKey r]) ++
    [.subBytes, .shiftRows, .addRoundKey nr]

/-- `ARK Nr; ISR; ISB; (ARK r; IMC; ISR; ISB) for r = Nr-1 .. 1; ARK 0` (spec/42_round_pipeline.md R190). -/
def decBlkSteps (nr : Nat) : List Instr :=
  [.addRoundKey nr, .invShiftRows, .invSubBytes] ++
    (List.range' 1 (nr - 1)).reverse.flatMap
      (fun r => [.addRoundKey r, .invMixColumns, .invShiftRows, .invSubBytes]) ++
    [.addRoundKey 0]

/-- A command for CBC only, as the brackets of spec/44_mode_controller.md R245 say. -/
def cbcOnly (y : Mode) (i : Instr) : List Instr := if y = .cbc then [i] else []

/-- The primitive commands that do the work of ENCRYPT on n padded blocks: `EXPAND.v ; PAD ; [CHIV] ; for i:
LDBLK i ; [XCH] ; ENCBLK ; STBLK i ; [CHS]` (R245). -/
def encryptSteps (x : Variant) (y : Mode) (n : Nat) : List Instr :=
  [expandInstr x, .pad] ++ cbcOnly y .chIv ++
    (List.range n).flatMap fun i => [.ldBlk i] ++ cbcOnly y .xch ++ [.encBlk, .stBlk i] ++ cbcOnly y .chS

/-- The primitive commands that do the work of DECRYPT on n blocks: `EXPAND.v ; [CHIV] ; for i: LDBLK i ; DECBLK ;
[XCH] ; STBLK i ; [CHBLK i] ; then UNPAD` (R245). -/
def decryptSteps (x : Variant) (y : Mode) (n : Nat) : List Instr :=
  [expandInstr x] ++ cbcOnly y .chIv ++
    ((List.range n).flatMap fun i => [.ldBlk i, .decBlk] ++ cbcOnly y .xch ++ [.stBlk i] ++ cbcOnly y (.chBlk i)) ++
    [.unpad]

/-! ## Whole messages, block by block -/

/-- The block that block i is combined with in CBC: the IV for block 0, and then the block before (R225, R226). -/
def previous (iv : Block) (blocks : Nat → Block) : Nat → Block
  | 0 => iv
  | i + 1 => blocks i

/-- Block i of the decrypted message, padding still on it (spec/44_mode_controller.md R224, R226). -/
def plainBlock (s : State) (x : Variant) (y : Mode) (i : Nat) : Block :=
  match y with
  | .ecb => inverse (inBlock s i) (schedule x (s.keyBytes x)) (nr x)
  | .cbc => xorBlock (inverse (inBlock s i) (schedule x (s.keyBytes x)) (nr x)) (previous s.iv (inBlock s) i)

/-- What ENCRYPT and DECRYPT read agrees in two states: KEY up to KeyLen, KEYLEN, LEN, IN up to LEN, MAXLEN, and for
CBC the IV and IVP (R231, R232; spec/93_implementation_defined.md U12 to U14). -/
def SameInputs (x : Variant) (y : Mode) (s t : State) : Prop :=
  (∀ j : Fin 32, j.val < keyLen x → t.key[j] = s.key[j]) ∧ t.keylen = s.keylen ∧ t.len = s.len ∧
    (∀ j, j < s.len.toNat → t.inByte j = s.inByte j) ∧ t.maxLen = s.maxLen ∧
    (y = .cbc → t.ivp = s.ivp ∧ (s.ivp = true → t.iv = s.iv))

end Sys2Proof.Machine
end

