-- ==== Sys2Proof/Certificates/Slice0/Obligations.lean ====
section
/-! DEFINITION. The statements for the provers. Each docstring names the rule of spec/ it formalises. -/

open Sys2Proof Sys2Proof.Machine

/-! ## Encoding -/

/-- The worked encodings of spec/30_encoding.md R113: six words and three illegal ones. -/
def Obligations.WorkedEncodingsDecode : Prop :=
  (encode .encrypt256Cbc = 0x00000B58 ∧ decode 0x00000B58 = .ok .encrypt256Cbc) ∧
  (encode .decrypt128Ecb = 0x00000559 ∧ decode 0x00000559 = .ok .decrypt128Ecb) ∧
  (encode .expand192 = 0x00000220 ∧ decode 0x00000220 = .ok .expand192) ∧
  (encode (.addRoundKey 10) = 0x000A0036 ∧ decode 0x000A0036 = .ok (.addRoundKey 10)) ∧
  (encode (.ldBlk 3) = 0x00030042 ∧ decode 0x00030042 = .ok (.ldBlk 3)) ∧
  (encode (.gfmul 0x57 0x83) = 0x57830010 ∧ decode 0x57830010 = .ok (.gfmul 0x57 0x83)) ∧
  (∃ e, decode 0x00000058 = .error e) ∧ (∃ e, decode 0x00000D58 = .error e) ∧ ∃ e, decode 0x00000037 = .error e

/-- Every well-formed command is what its word decodes to (spec/30_encoding.md sections 2 and 3). -/
def Obligations.DecodeOfEncodeIsIdentity : Prop :=
  ∀ i : Instr, i.wf = true → decode (encode i) = .ok i

/-- Every legal word is the word of the command it decodes to, and that command is well-formed
(spec/30_encoding.md sections 2 and 3): no legal word has a second spelling. -/
def Obligations.LegalWordIsItsCommandsWord : Prop :=
  ∀ (v : Word) (i : Instr), decode v = .ok i → encode i = v ∧ i.wf = true

/-- Decoding by fields and decoding by the 35 match and mask rows agree (spec/30_encoding.md R110): a word is legal
exactly when a row selects it, the row is the row of the command it decodes to, and at most one row selects it. -/
def Obligations.FieldDecoderAgreesWithOpcodeRows : Prop :=
  ∀ v : Word,
    ((∃ i, decode v = .ok i) ↔ ∃ j ∈ tableRows, selectsRow v j = true) ∧
    (∀ i, decode v = .ok i → selectsRow v i = true) ∧
    ∀ j ∈ tableRows, ∀ k ∈ tableRows, selectsRow v j = true → selectsRow v k = true → j = k

/-! ## Steps, launch, completion -/

/-- When a launched command is to complete and its word decodes to i, the step is exec of i
(spec/30_encoding.md R101, spec/44_mode_controller.md R244). -/
def Obligations.StepRunsDecodedInstruction : Prop :=
  ∀ (s : State) (i : Instr), s.seq = .running 0 → decode s.lastcmd = .ok i → step s = exec i s

/-- A write of a legal word to CMD while idle launches it, and the command then runs on the state as it was at the
write (spec/30_encoding.md R101). The number of host operations served in between is the model's input `delays`
(log 3). -/
def Obligations.CommandWriteLaunchesAndRuns : Prop :=
  ∀ (s : State) (v : Word) (i : Instr) (rest : List HostOp),
    s.seq = .idle → s.busy = false → s.pending = .write 0x000000 4 v :: rest → decode v = .ok i →
    ∃ t, step s = .next t ∧ t.lastcmd = v ∧ t.busy = true ∧ t.done = false ∧ t.errcode = 0 ∧
      t.seq = .running (s.delays.headD 0) ∧ t.delays = s.delays.tail ∧
      t.pending = rest ∧ t.answers = .ok :: s.answers ∧ OnlyFlags s { t with pending := s.pending, answers := s.answers, delays := s.delays } ∧
      (s.delays.headD 0 = 0 → step t = exec i t)

/-- A write of an illegal word to CMD while idle completes at once with IllegalCommand and changes nothing but LASTCMD
and the flags (spec/60_exceptions.md R262). -/
def Obligations.IllegalWordCompletesWithIllegalCommand : Prop :=
  ∀ (s : State) (v : Word) (e : Illegal), s.seq = .idle → s.busy = false → decode v = .error e →
    ∃ t, busWrite s 0x000000 4 v = t ∧ writeAnswer s 0x000000 4 = .ok ∧ t.lastcmd = v ∧ t.busy = false ∧
      t.done = true ∧ t.errcode = 0x10 ∧ t.seq = .idle ∧ OnlyFlags s t

/-- Every command, on every state, ends: with a next state that is idle and done, with the host's side, MAXLEN and
LASTCMD unchanged, and with no error or exactly one of the errors of the table (spec/60_exceptions.md R260, R261). -/
def Obligations.EveryCommandCompletes : Prop :=
  ∀ (i : Instr) (s : State), ∃ t code, exec i s = .next t ∧ EndsWith s t code ∧ SameHost s t ∧
    (code = 0 ∨ ∃ e, code = errorCode e)

/-- Every command terminates (spec/70_reset_and_hazards.md R303): from a state in which n host operations are left
before a completion, BUSY is 0 after at most n + 1 steps. -/
def Obligations.RunningCommandTerminates : Prop :=
  ∀ (n : Nat) (s : State), s.seq = .running n →
    ∃ k ≤ n + 1, ∃ t, Host.Core.run core k s = .next t ∧ t.busy = false

/-! ## Reset and invariants -/

/-- Reset, at any time but the step of a completion, also while a command runs: every piece of the engine's state is
zero and SEQ is IDLE, STATUS reads 0 (spec/10_state.md R64; spec/70_reset_and_hazards.md R290); State.reset is such a
state too. The host's pending operations, in which the reset stands, are the model's way to hold the host (log 1). -/
def Obligations.ResetZeroesEverything : Prop :=
  (EngineZero State.reset ∧ statusWord State.reset = 0x00000000) ∧
  ∀ (s : State) (rest : List HostOp), s.pending = .reset :: rest → s.seq ≠ .running 0 →
    ∃ t, step s = .next t ∧ EngineZero t ∧ statusWord t = 0x00000000

/-- The state after reset (spec/10_state.md R64): the three invariants below hold in it. -/
def Obligations.ResetStateMeetsInvariants : Prop :=
  BuffersOk State.reset ∧ ScheduleOk State.reset ∧ FlagsOk State.reset

/-- Every step keeps the buffers' invariant: OUT is zero from OUTLEN on, OUTLEN is at most MAXLEN
(spec/10_state.md R33, R34), and both buffers keep the model's canonical form below MAXLEN. -/
def Obligations.StepKeepsBufferInvariant : Prop :=
  ∀ s t : State, BuffersOk s → step s = .next t → BuffersOk t

/-- Every step keeps the schedule invariant: "Nothing but the expander ever writes a non-zero value to W"
(spec/41_key_schedule.md R157, spec/10_state.md R28). -/
def Obligations.StepKeepsScheduleInvariant : Prop :=
  ∀ s t : State, ScheduleOk s → step s = .next t → ScheduleOk t

/-- Every step keeps the flags' invariant (spec/10_state.md R35, R62; spec/60_exceptions.md R261). -/
def Obligations.StepKeepsFlagInvariant : Prop :=
  ∀ s t : State, FlagsOk s → step s = .next t → FlagsOk t

/-! ## The bus -/

/-- The bus refuses exactly the accesses of spec/20_memory.md R75, and a refused access changes nothing, busy or idle. -/
def Obligations.BusErrorExactlyOnRefusedAccess : Prop :=
  ∀ (s : State) (addr : Addr) (width : Nat) (v : Word),
    (busRead s addr width = .busError ↔ ¬(width = 4 ∧ addr.toNat % 4 = 0 ∧ Mapped s.maxLen addr.toNat)) ∧
    (writeAnswer s addr width = .busError ↔ ¬(width = 4 ∧ addr.toNat % 4 = 0 ∧ Mapped s.maxLen addr.toNat)) ∧
    (writeAnswer s addr width = .busError → busWrite s addr width v = s)

/-- Accesses while `BUSY = 1` (spec/20_memory.md R85): STATUS reads true, any other mapped address reads 0, a write to
any mapped address answers OK and leaves no trace, and unmapped or misaligned accesses are still refused. -/
def Obligations.BusyEngineAnswersOnlyStatus : Prop :=
  ∀ (s : State) (addr : Addr) (v : Word), s.busy = true →
    busRead s 0x000004 4 = .data (statusWord s) ∧
    (addr.toNat % 4 = 0 ∧ Mapped s.maxLen addr.toNat ∧ addr ≠ 0x000004 → busRead s addr 4 = .data 0) ∧
    (addr.toNat % 4 = 0 ∧ Mapped s.maxLen addr.toNat → writeAnswer s addr 4 = .ok) ∧
    (¬(addr.toNat % 4 = 0 ∧ Mapped s.maxLen addr.toNat) →
      busRead s addr 4 = .busError ∧ writeAnswer s addr 4 = .busError) ∧
    busWrite s addr 4 v = s

/-- A host read answers what the bus read gives and changes no engine state (spec/20_memory.md R72, R79). -/
def Obligations.HostReadChangesNothing : Prop :=
  ∀ (s : State) (addr : Addr) (width : Nat) (rest : List HostOp),
    s.pending = .read addr width :: rest → s.seq ≠ .running 0 →
    ∃ t, step s = .next t ∧ t.answers = busRead s addr width :: s.answers ∧ t.pending = rest ∧
      t.seq = seqServed s.seq ∧ SameEngine s t

/-- A host write, on an idle or a running engine, has the effect of the bus write and its answer is recorded
(spec/20_memory.md R73). The answer is OK at every mapped word; on a busy engine the write leaves no trace but that
answer (R85). The count in SEQ of operations left before the completion is the model's (log 3). -/
def Obligations.HostWriteTakesEffect : Prop :=
  ∀ (s : State) (addr : Addr) (width : Nat) (v : Word) (rest : List HostOp),
    s.pending = .write addr width v :: rest → s.seq ≠ .running 0 →
    (step s = .next { busWrite { s with seq := seqServed s.seq } addr width v with
      pending := rest,
      answers := writeAnswer s addr width :: (busWrite { s with seq := seqServed s.seq } addr width v).answers }) ∧
    (s.busy = true → step s = .next { s with
      seq := seqServed s.seq, pending := rest, answers := writeAnswer s addr width :: s.answers }) ∧
    (width = 4 → addr.toNat % 4 = 0 → Mapped s.maxLen addr.toNat → writeAnswer s addr width = .ok)

/-- The fields of STATUS, which reads true whether busy or not, and of PARAM, whose write takes KEYLEN from bits 5:0 and
IVP from bit 8 and nothing else and whose read returns `(IVP << 8) | KEYLEN` (spec/10_state.md section 2). -/
def Obligations.StatusAndParamFields : Prop :=
  ∀ (s : State) (p : Word),
    (∃ v, busRead s 0x000004 4 = .data v ∧
      v.getLsbD 0 = s.busy ∧ v.getLsbD 1 = s.done ∧ v.getLsbD 2 = s.schedValid ∧ v.getLsbD 3 = false ∧
      v.extractLsb' 4 2 = s.schedVar ∧ v.extractLsb' 6 2 = 0 ∧ v.extractLsb' 8 8 = s.errcode ∧
      v.extractLsb' 16 16 = 0) ∧
    (s.busy = false →
      busWrite s 0x000008 4 p = { s with keylen := p.extractLsb' 0 6, ivp := p.getLsbD 8 } ∧
      busRead s 0x000008 4 = .data (((BitVec.ofBool s.ivp).setWidth 32 <<< 8) ||| s.keylen.setWidth 32))

/-- KEYk: a write stores the four bytes, most significant first, and changes nothing else; a read returns 0
(spec/10_state.md R48). -/
def Obligations.KeyWordWriteStoresFourBytes : Prop :=
  ∀ (s : State) (k : Nat) (v : Word), s.busy = false → k < 8 →
    ∃ t, busWrite s (BitVec.ofNat 24 (0x020 + 4 * k)) 4 v = t ∧
      (∀ j < 4, t.key.getD (4 * k + j) 0 = byteOf v j) ∧ wordAt t.key k = v ∧
      (∀ j, j < 4 * k ∨ 4 * k + 4 ≤ j → t.key.getD j 0 = s.key.getD j 0) ∧
      t = { s with key := t.key } ∧ busRead s (BitVec.ofNat 24 (0x020 + 4 * k)) 4 = .data 0

/-- What a read returns when the engine is idle, register by register (spec/10_state.md section 2). -/
def Obligations.IdleReadReturnsRegister : Prop :=
  ∀ s : State, s.busy = false →
    busRead s 0x000000 4 = .data 0 ∧ busRead s 0x00000C 4 = .data s.len ∧ busRead s 0x000010 4 = .data s.outlen ∧
    busRead s 0x000014 4 = .data (s.gfr.setWidth 32) ∧ busRead s 0x000018 4 = .data s.lastcmd ∧
    (∀ k < 4, busRead s (BitVec.ofNat 24 (0x040 + 4 * k)) 4 = .data (wordAt s.iv k)) ∧
    (∀ k : Fin 4, busRead s (BitVec.ofNat 24 (0x050 + 4 * k.val)) 4 =
      .data (be32 s.st[0][k] s.st[1][k] s.st[2][k] s.st[3][k])) ∧
    (∀ k < 4, busRead s (BitVec.ofNat 24 (0x060 + 4 * k)) 4 = .data (wordAt s.chain k)) ∧
    (∀ k : Fin 60, busRead s (BitVec.ofNat 24 (0x100 + 4 * k.val)) 4 = .data s.w[k]) ∧
    (∀ k, 4 * k < s.maxLen → busRead s (BitVec.ofNat 24 (0x100000 + 4 * k)) 4 =
      .data (be32 (s.inByte (4 * k)) (s.inByte (4 * k + 1)) (s.inByte (4 * k + 2)) (s.inByte (4 * k + 3)))) ∧
    ∀ k, 4 * k < s.maxLen → busRead s (BitVec.ofNat 24 (0x200000 + 4 * k)) 4 =
      .data (be32 (s.outByte (4 * k)) (s.outByte (4 * k + 1)) (s.outByte (4 * k + 2)) (s.outByte (4 * k + 3)))

/-- A word written to LEN, IVk, Sk or a word of IN on an idle engine is the word read back, and the write stores its
bytes there, most significant first, and does nothing else: for IVk the other bytes of IV and IVP stay, for Sk the other
columns (spec/10_state.md section 2, spec/20_memory.md section 4). -/
def Obligations.WrittenWordReadsBack : Prop :=
  ∀ (s : State) (v : Word), s.busy = false →
    (∀ addr : Addr, addr.toNat % 4 = 0 → addr = 0x00000C ∨ (0x040 ≤ addr.toNat ∧ addr.toNat ≤ 0x05C) →
      busRead (busWrite s addr 4 v) addr 4 = .data v) ∧
    busWrite s 0x00000C 4 v = { s with len := v } ∧
    (∀ k < 4, ∃ t, busWrite s (BitVec.ofNat 24 (0x040 + 4 * k)) 4 v = t ∧
      (∀ j < 4, t.iv.getD (4 * k + j) 0 = byteOf v j) ∧
      (∀ j, j < 4 * k ∨ 4 * k + 4 ≤ j → t.iv.getD j 0 = s.iv.getD j 0) ∧ t = { s with iv := t.iv }) ∧
    (∀ k : Fin 4, ∃ t, busWrite s (BitVec.ofNat 24 (0x050 + 4 * k.val)) 4 v = t ∧
      (∀ r : Fin 4, t.st[r][k] = byteOf v r.val) ∧
      (∀ r c : Fin 4, c ≠ k → t.st[r][c] = s.st[r][c]) ∧ t = { s with st := t.st }) ∧
    (BuffersOk s → ∀ k, 4 * k < s.maxLen → ∃ t, busWrite s (BitVec.ofNat 24 (0x100000 + 4 * k)) 4 v = t ∧
      busRead t (BitVec.ofNat 24 (0x100000 + 4 * k)) 4 = .data v ∧
      (∀ j < 4, t.inByte (4 * k + j) = byteOf v j) ∧
      (∀ a, a < 4 * k ∨ 4 * k + 4 ≤ a → t.inByte a = s.inByte a) ∧ t = { s with inBuf := t.inBuf })

/-- Writes to the read-only registers and to OUT change nothing and answer OK (spec/10_state.md R40,
spec/45_control.md R254). -/
def Obligations.ReadOnlyWritesChangeNothing : Prop :=
  ∀ (s : State) (addr : Addr) (v : Word),
    addr.toNat % 4 = 0 →
    (addr = 0x000004 ∨ (0x010 ≤ addr.toNat ∧ addr.toNat ≤ 0x018) ∨ (0x060 ≤ addr.toNat ∧ addr.toNat ≤ 0x06C) ∨
      (0x100 ≤ addr.toNat ∧ addr.toNat ≤ 0x1EC) ∨
      (0x200000 ≤ addr.toNat ∧ addr.toNat < 0x200000 + s.maxLen)) →
    busWrite s addr 4 v = s ∧ writeAnswer s addr 4 = .ok

/-! ## GF(2^8) and the tables -/

/-- GfMul is the product of its operands as polynomials reduced modulo `x^8+x^4+x^3+x+1`, on every pair of bytes
(spec/40_gf_tables.md R131); GFMUL leaves it in GFR and changes nothing else. -/
def Obligations.GfmulGivesPolynomialProduct : Prop :=
  ∀ a b : Byte, gfMul a b = polyMod (polyMul a b) ∧
    ∀ s : State, ∃ t, exec (.gfmul a b) s = .next t ∧ t.gfr = gfMul a b ∧ EndsWith s t 0 ∧ OnlyGfr s t

/-- The field laws of spec/40_gf_tables.md R133. -/
def Obligations.GfMulFieldLaws : Prop :=
  ∀ a b c : Byte,
    gfMul a b = gfMul b a ∧ gfMul (gfMul a b) c = gfMul a (gfMul b c) ∧
    gfMul a (b ^^^ c) = gfMul a b ^^^ gfMul a c ∧ gfMul a 0x01 = a ∧ gfMul a 0x00 = 0x00 ∧
    (a ≠ 0 → b ≠ 0 → gfMul a b ≠ 0) ∧
    gfMul 0x02 a = (a <<< 1) ^^^ (if a.getLsbD 7 then 0x1B else 0x00) ∧
    gfMul 0x03 a = gfMul 0x02 a ^^^ a ∧
    gfMul 0x09 a = gfMul 0x08 a ^^^ a ∧ gfMul 0x0B a = gfMul 0x08 a ^^^ gfMul 0x02 a ^^^ a ∧
    gfMul 0x0D a = gfMul 0x08 a ^^^ gfMul 0x04 a ^^^ a ∧
    gfMul 0x0E a = gfMul 0x08 a ^^^ gfMul 0x04 a ^^^ gfMul 0x02 a ∧
    gfMul 0x04 a = gfMul 0x02 (gfMul 0x02 a) ∧ gfMul 0x08 a = gfMul 0x02 (gfMul 0x04 a)

/-- InvSbox is the inverse permutation of Sbox (spec/40_gf_tables.md R136), and Sbox has no fixed point; Sbox is the
affine image of the inverse in the field, the construction the spec checked it by (section 3). The contents of the
tables are the spec's passages from general knowledge (log 12). -/
def Obligations.SubstitutionTables : Prop :=
  ∀ b : Byte, invSbox (sbox b) = b ∧ sbox (invSbox b) = b ∧ sbox b ≠ b ∧
    ∃ x : Byte, (if b = 0 then x = 0 else gfMul b x = 1) ∧
      sbox b = x ^^^ x.rotateLeft 1 ^^^ x.rotateLeft 2 ^^^ x.rotateLeft 3 ^^^ x.rotateLeft 4 ^^^ 0x63

/-- The round constants follow the doubling sequence from 0x01, the high byte alone non-zero, and have the ten listed
values (spec/40_gf_tables.md R137). R137 gives the indices 1 to 10 only, the ones a schedule uses; that the sequence
goes on doubling above 10 is the model's choice (log 11, DESIGN CHOICE). -/
def Obligations.RoundConstantsDouble : Prop :=
  rcon 1 = be32 0x01 0 0 0 ∧ (∀ j, 1 ≤ j → rcon (j + 1) = be32 (gfMul 0x02 (byteOf (rcon j) 0)) 0 0 0) ∧
  (List.range 10).map (fun j => rcon (j + 1)) =
    [0x01000000, 0x02000000, 0x04000000, 0x08000000, 0x10000000, 0x20000000, 0x40000000, 0x80000000, 0x1B000000,
     0x36000000]

/-! ## Key schedule -/

/-- EXPAND with the right key length: W holds the schedule of the key by the recurrence of spec/41_key_schedule.md
R151, zero above it (R155), marked valid for the variant; the key is consumed; nothing else changes. -/
def Obligations.ExpandFollowsRecurrence : Prop :=
  ∀ (x : Variant) (s : State), s.keylen.toNat = keyLen x →
    ∃ t, exec (expandInstr x) s = .next t ∧ EndsWith s t 0 ∧
      (∀ i < nk x, t.w.getD i 0 = wordAt s.key i) ∧
      (∀ i, nk x ≤ i → i < nw x → t.w.getD i 0 =
        t.w.getD (i - nk x) 0 ^^^
          (if i % nk x = 0 then subWord (rotWord (t.w.getD (i - 1) 0)) ^^^ rcon (i / nk x)
           else if nk x = 8 ∧ i % nk x = 4 then subWord (t.w.getD (i - 1) 0)
           else t.w.getD (i - 1) 0)) ∧
      (∀ i, nw x ≤ i → i < 60 → t.w.getD i 0 = 0) ∧
      t.schedValid = true ∧ t.schedVar = x.code ∧ KeyZero t ∧ OnlyKeyAndSchedule s t

/-- EXPAND with another key length ends with InvalidKeyLength: the schedule stays, the key is consumed all the same
(spec/41_key_schedule.md R156, spec/60_exceptions.md R271). -/
def Obligations.ExpandRejectsWrongKeyLength : Prop :=
  ∀ (x : Variant) (s : State), s.keylen.toNat ≠ keyLen x →
    ∃ t, exec (expandInstr x) s = .next t ∧ EndsWith s t 0x01 ∧ KeyZero t ∧ SameSchedule s t ∧ OnlyKeyAndSchedule s t

/-! ## Round pipeline -/

/-- SUBBYTES and INVSUBBYTES replace every byte of S by its table entry and change nothing else
(spec/42_round_pipeline.md R170, R172). -/
def Obligations.SubBytesCommands : Prop :=
  ∀ s : State,
    (∃ t, exec .subBytes s = .next t ∧ (∀ r c : Fin 4, t.st[r][c] = sbox s.st[r][c]) ∧ EndsWith s t 0 ∧ OnlySt s t) ∧
    ∃ t, exec .invSubBytes s = .next t ∧ (∀ r c : Fin 4, t.st[r][c] = invSbox s.st[r][c]) ∧ EndsWith s t 0 ∧
      OnlySt s t

/-- SHIFTROWS and INVSHIFTROWS: byte by byte, `s'[r][c] = s[r][(c + r) mod 4]` and `s'[r][c] = s[r][(c - r) mod 4]`
(spec/42_round_pipeline.md R174, R176), written with the arithmetic of Fin 4, which is modulo 4. -/
def Obligations.ShiftRowsCommands : Prop :=
  ∀ s : State,
    (∃ t, exec .shiftRows s = .next t ∧ (∀ r c : Fin 4, t.st[r][c] = s.st[r][c + r]) ∧ EndsWith s t 0 ∧ OnlySt s t) ∧
    ∃ t, exec .invShiftRows s = .next t ∧ (∀ r c : Fin 4, t.st[r][c] = s.st[r][c - r]) ∧ EndsWith s t 0 ∧ OnlySt s t

/-- MIXCOLUMNS and INVMIXCOLUMNS, column by column, with the four rows of each matrix written out
(spec/42_round_pipeline.md R178, R180). -/
def Obligations.MixColumnsCommands : Prop :=
  ∀ s : State,
    (∃ t, exec .mixColumns s = .next t ∧ EndsWith s t 0 ∧ OnlySt s t ∧
      ∀ c : Fin 4,
        t.st[0][c] = gfMul 0x02 s.st[0][c] ^^^ gfMul 0x03 s.st[1][c] ^^^ s.st[2][c] ^^^ s.st[3][c] ∧
        t.st[1][c] = s.st[0][c] ^^^ gfMul 0x02 s.st[1][c] ^^^ gfMul 0x03 s.st[2][c] ^^^ s.st[3][c] ∧
        t.st[2][c] = s.st[0][c] ^^^ s.st[1][c] ^^^ gfMul 0x02 s.st[2][c] ^^^ gfMul 0x03 s.st[3][c] ∧
        t.st[3][c] = gfMul 0x03 s.st[0][c] ^^^ s.st[1][c] ^^^ s.st[2][c] ^^^ gfMul 0x02 s.st[3][c]) ∧
    ∃ t, exec .invMixColumns s = .next t ∧ EndsWith s t 0 ∧ OnlySt s t ∧
      ∀ c : Fin 4,
        t.st[0][c] =
          gfMul 0x0e s.st[0][c] ^^^ gfMul 0x0b s.st[1][c] ^^^ gfMul 0x0d s.st[2][c] ^^^ gfMul 0x09 s.st[3][c] ∧
        t.st[1][c] =
          gfMul 0x09 s.st[0][c] ^^^ gfMul 0x0e s.st[1][c] ^^^ gfMul 0x0b s.st[2][c] ^^^ gfMul 0x0d s.st[3][c] ∧
        t.st[2][c] =
          gfMul 0x0d s.st[0][c] ^^^ gfMul 0x09 s.st[1][c] ^^^ gfMul 0x0e s.st[2][c] ^^^ gfMul 0x0b s.st[3][c] ∧
        t.st[3][c] =
          gfMul 0x0b s.st[0][c] ^^^ gfMul 0x0d s.st[1][c] ^^^ gfMul 0x09 s.st[2][c] ^^^ gfMul 0x0e s.st[3][c]

/-- Each inverse transformation undoes its forward one, and the other way round (spec/42_round_pipeline.md sections 1
to 4): in particular the two matrices are inverse over the field. -/
def Obligations.TransformationsAreInverse : Prop :=
  ∀ (s : Mat) (w : Schedule) (r : Nat),
    invSubBytes (subBytes s) = s ∧ subBytes (invSubBytes s) = s ∧
    invShiftRows (shiftRows s) = s ∧ shiftRows (invShiftRows s) = s ∧
    invMixColumns (mixColumns s) = s ∧ mixColumns (invMixColumns s) = s ∧
    addRoundKey (addRoundKey s w r) w r = s

/-- ADDROUNDKEY r with a schedule and r at most Nr: S is combined with round key r, word 4r + c with column c, its most
significant byte with row 0 (spec/42_round_pipeline.md R183); the command twice restores S. -/
def Obligations.AddRoundKeyCommand : Prop :=
  ∀ (r : Nat) (s : State), s.schedValid = true → r ≤ nrOfCode s.schedVar →
    ∃ t, exec (.addRoundKey r) s = .next t ∧ EndsWith s t 0 ∧ OnlySt s t ∧
      (∀ k c : Fin 4, t.st[k][c] = s.st[k][c] ^^^ byteOf (s.w.getD (4 * r + c.val) 0) k.val) ∧
      (∀ c : Fin 4, columnWord t.st c = columnWord s.st c ^^^ s.w.getD (4 * r + c.val) 0) ∧
      ∃ u, execAll [.addRoundKey r, .addRoundKey r] s = .next u ∧ u.st = s.st

/-- Where the commands that need a schedule stop short (spec/60_exceptions.md R268): without a schedule ADDROUNDKEY,
ENCBLK and DECBLK end with NoSchedule, and ADDROUNDKEY with r above Nr with OperandRange; nothing but the flags
changes. -/
def Obligations.ScheduleErrorsChangeNothing : Prop :=
  ∀ (r : Nat) (s : State),
    (s.schedValid = false → ∀ i ∈ [Instr.addRoundKey r, .encBlk, .decBlk],
      ∃ t, exec i s = .next t ∧ EndsWith s t 0x11 ∧ OnlyFlags s t) ∧
    (s.schedValid = true → nrOfCode s.schedVar < r →
      ∃ t, exec (.addRoundKey r) s = .next t ∧ EndsWith s t 0x12 ∧ OnlyFlags s t)

/-- ENCBLK and DECBLK with a schedule complete, change S only, and leave in S what their sequences of primitive commands
leave (spec/42_round_pipeline.md sections 5 and 6): for ENCBLK AddRoundKey 0, the middle rounds, and the last round
without MixColumns; for DECBLK the exact reversal. -/
def Obligations.BlockCommandsArePrimitiveSequences : Prop :=
  ∀ s : State, s.schedValid = true →
    (∃ t u, exec .encBlk s = .next t ∧ EndsWith s t 0 ∧ OnlySt s t ∧
      execAll (encBlkSteps (nrOfCode s.schedVar)) s = .next u ∧ EndsWith s u 0 ∧ t.st = u.st) ∧
    ∃ t u, exec .decBlk s = .next t ∧ EndsWith s t 0 ∧ OnlySt s t ∧
      execAll (decBlkSteps (nrOfCode s.schedVar)) s = .next u ∧ EndsWith s u 0 ∧ t.st = u.st

/-- With a schedule, DECBLK after ENCBLK restores S, and ENCBLK after DECBLK too (spec/42_round_pipeline.md
section 6). -/
def Obligations.DecBlkUndoesEncBlk : Prop :=
  ∀ s : State, s.schedValid = true →
    (∃ t, execAll [.encBlk, .decBlk] s = .next t ∧ t.st = s.st) ∧
    ∃ t, execAll [.decBlk, .encBlk] s = .next t ∧ t.st = s.st

/-! ## Padding and block moves -/

/-- `Pad` (spec/43_padding_segmentation.md R203): 1 to 16 bytes are appended, each holding that count's value, a full
block of 0x10 when the length is a multiple of 16, and the result is a positive multiple of 16 long. -/
def Obligations.PadAppendsCount : Prop :=
  ∀ m : List Byte, ∃ p, 1 ≤ p ∧ p ≤ 16 ∧ pad m = m ++ List.replicate p (BitVec.ofNat 8 p) ∧
    (m.length % 16 = 0 → p = 16) ∧ (pad m).length = 16 * (m.length / 16 + 1)

/-- `Unpad` succeeds with r exactly on r followed by p bytes of value p, 1 <= p <= 16: the check is strict
(spec/43_padding_segmentation.md R205, R206). In particular the empty buffer fails. -/
def Obligations.UnpadAcceptsExactlyPaddedBuffers : Prop :=
  ∀ b r : List Byte,
    unpad b = some r ↔ ∃ p, 1 ≤ p ∧ p ≤ 16 ∧ b = r ++ List.replicate p (BitVec.ofNat 8 p)

/-- PAD with `LEN < MAXLEN`: the padding bytes are written in IN after the message, LEN grows to cover them, no other
byte of IN and nothing else changes (spec/43_padding_segmentation.md R204). -/
def Obligations.PadCommandPadsInPlace : Prop :=
  ∀ s : State, s.len.toNat < s.maxLen →
    ∃ t, exec .pad s = .next t ∧ EndsWith s t 0 ∧ OnlyIn s t ∧
      t.len.toNat = s.len.toNat + (16 - s.len.toNat % 16) ∧
      (∀ j, s.len.toNat ≤ j → j < s.len.toNat + (16 - s.len.toNat % 16) →
        t.inByte j = BitVec.ofNat 8 (16 - s.len.toNat % 16)) ∧
      ∀ j, j < s.len.toNat ∨ s.len.toNat + (16 - s.len.toNat % 16) ≤ j → t.inByte j = s.inByte j

/-- UNPAD on a padded result removes the padding and zeroes the removed bytes; on any other result it ends with
InvalidPadding and returns nothing, OUT all zero and `OUTLEN = 0` (spec/43_padding_segmentation.md R207). -/
def Obligations.UnpadCommand : Prop :=
  encode .unpad = 0x00000041 ∧ ∀ s : State, Memory.wf s.outBuf = true →
    (∀ (r : List Byte) (p : Nat), 1 ≤ p → p ≤ 16 → s.result = r ++ List.replicate p (BitVec.ofNat 8 p) →
      ∃ t, exec .unpad s = .next t ∧ EndsWith s t 0 ∧ OnlyOut s t ∧ t.outlen.toNat = s.outlen.toNat - p ∧
        t.result = r ∧ (∀ j, s.outlen.toNat - p ≤ j → j < s.outlen.toNat → t.outByte j = 0) ∧
        ∀ j, j < s.outlen.toNat - p ∨ s.outlen.toNat ≤ j → t.outByte j = s.outByte j) ∧
    ((∀ (r : List Byte) (p : Nat), 1 ≤ p → p ≤ 16 → s.result ≠ r ++ List.replicate p (BitVec.ofNat 8 p)) →
      ∃ t, exec .unpad s = .next t ∧ EndsWith s t 0x04 ∧ OnlyOut s t ∧ ResultZero t)

/-- LDBLK n and CHBLK n on a complete block of the message: byte `IN[16n + r + 4c]` goes to `S[r][c]`, byte
`IN[16n + k]` to `CHAIN[k]` (spec/43_padding_segmentation.md R210, spec/44_mode_controller.md R222). -/
def Obligations.BlockLoadsReadInput : Prop :=
  ∀ (n : Nat) (s : State), s.len.toNat ≤ s.maxLen → 16 * n + 16 ≤ s.len.toNat →
    (∃ t, exec (.ldBlk n) s = .next t ∧ EndsWith s t 0 ∧ OnlySt s t ∧
      ∀ r c : Fin 4, t.st[r][c] = s.inByte (16 * n + r.val + 4 * c.val)) ∧
    ∃ t, exec (.chBlk n) s = .next t ∧ EndsWith s t 0 ∧ OnlyChain s t ∧
      ∀ k : Fin 16, t.chain[k] = s.inByte (16 * n + k.val)

/-- STBLK n with the block inside the buffer: `S[r][c]` goes to `OUT[16n + r + 4c]`, OUTLEN grows to cover the block
and never shrinks, no other byte and nothing else changes (spec/43_padding_segmentation.md R211). -/
def Obligations.BlockStoreWritesOutput : Prop :=
  ∀ (n : Nat) (s : State), Memory.wf s.outBuf = true → 16 * n + 16 ≤ s.maxLen →
    ∃ t, exec (.stBlk n) s = .next t ∧ EndsWith s t 0 ∧ OnlyOut s t ∧
      (∀ r c : Fin 4, t.outByte (16 * n + r.val + 4 * c.val) = s.st[r][c]) ∧
      (∀ a, a < 16 * n ∨ 16 * n + 16 ≤ a → t.outByte a = s.outByte a) ∧
      t.outlen.toNat = max s.outlen.toNat (16 * n + 16)

/-- Where PAD and the block commands stop short, in the order of the checks (spec/60_exceptions.md sections 2 to 4):
BufferOverflow before OperandRange; nothing but the flags changes. -/
def Obligations.BufferErrorsChangeNothing : Prop :=
  ∀ (n : Nat) (s : State),
    (s.maxLen ≤ s.len.toNat → ∃ t, exec .pad s = .next t ∧ EndsWith s t 0x13 ∧ OnlyFlags s t) ∧
    (∀ i ∈ [Instr.ldBlk n, .chBlk n],
      (s.maxLen < s.len.toNat → ∃ t, exec i s = .next t ∧ EndsWith s t 0x13 ∧ OnlyFlags s t) ∧
      (s.len.toNat ≤ s.maxLen → s.len.toNat < 16 * n + 16 →
        ∃ t, exec i s = .next t ∧ EndsWith s t 0x12 ∧ OnlyFlags s t)) ∧
    (s.maxLen < 16 * n + 16 → ∃ t, exec (.stBlk n) s = .next t ∧ EndsWith s t 0x12 ∧ OnlyFlags s t)

/-! ## Chaining and control -/

/-- CHIV with an IV present copies IV to CHAIN and keeps the IV; without one it ends with MissingIV and changes nothing
(spec/44_mode_controller.md R220). -/
def Obligations.ChainFromIv : Prop :=
  encode .chIv = 0x00000050 ∧ ∀ s : State,
    (s.ivp = true → ∃ t, exec .chIv s = .next t ∧ EndsWith s t 0 ∧ OnlyChain s t ∧ ∀ k : Fin 16, t.chain[k] = s.iv[k]) ∧
    (s.ivp = false → ∃ t, exec .chIv s = .next t ∧ EndsWith s t 0x03 ∧ OnlyFlags s t)

/-- CHS copies the state to CHAIN as a linear block; CHk then reads the same word as Sk
(spec/44_mode_controller.md R221). -/
def Obligations.ChainFromState : Prop :=
  encode .chS = 0x00000051 ∧ ∀ s : State, ∃ t, exec .chS s = .next t ∧ EndsWith s t 0 ∧ OnlyChain s t ∧
    (∀ r c : Fin 4, t.chain.getD (r.val + 4 * c.val) 0 = s.st[r][c]) ∧
    ∀ k : Fin 4, wordAt t.chain k.val = columnWord t.st k

/-- XCH: `S[r][c] <- S[r][c] ^ CHAIN[r + 4c]`; twice restores S (spec/44_mode_controller.md R223). -/
def Obligations.XorChainIntoState : Prop :=
  encode .xch = 0x00000053 ∧ ∀ s : State,
    (∃ t, exec .xch s = .next t ∧ EndsWith s t 0 ∧ OnlySt s t ∧
      (∀ r c : Fin 4, t.st[r][c] = s.st[r][c] ^^^ s.chain.getD (r.val + 4 * c.val) 0) ∧
      ∀ k : Fin 4, columnWord t.st k = columnWord s.st k ^^^ wordAt s.chain k.val) ∧
    ∃ t, execAll [.xch, .xch] s = .next t ∧ t.st = s.st

/-- NOP changes nothing but the flags and clears the error of the command before (spec/45_control.md R250); CLEAR
zeroes every register and buffer (R252): after it the engine is as after reset but for DONE and LASTCMD. -/
def Obligations.ControlCommands : Prop :=
  encode .nop = 0x00000000 ∧ encode .clear = 0x00000001 ∧ ∀ s : State,
    (∃ t, exec .nop s = .next t ∧ EndsWith s t 0 ∧ OnlyFlags s t) ∧
    ∃ t, exec .clear s = .next t ∧ EndsWith s t 0 ∧ SecretsZero t ∧ t.gfr = 0 ∧ (∀ j, t.inByte j = 0) ∧ t.len = 0 ∧
      ResultZero t ∧ SameHost s t ∧ statusWord t = 0x00000002 ∧
      t = { resetEngine s with done := true, lastcmd := s.lastcmd } ∧
      (s.lastcmd = encode .clear → t = { resetEngine s with done := true, lastcmd := 0x00000001 })

/-! ## Whole messages -/

/-- ENCRYPT with the right key length, for CBC an IV, and `LEN < MAXLEN`: OUT holds the padded message encrypted block
by block, in CBC each block combined with the ciphertext block before it and block 0 with the IV; OUT is zero above;
`OUTLEN = 16 (LEN div 16 + 1)`; the secrets are zeroed; IN, LEN and GFR stay (spec/44_mode_controller.md sections 2
and 3). -/
def Obligations.EncryptBlockByBlock : Prop :=
  ∀ (x : Variant) (y : Mode) (s : State), s.keylen.toNat = keyLen x → (y = .cbc → s.ivp = true) →
    s.len.toNat < s.maxLen →
    ∃ t, exec (encryptInstr x y) s = .next t ∧ EndsWith s t 0 ∧
      t.outlen.toNat = 16 * (s.len.toNat / 16 + 1) ∧
      (∀ i < s.len.toNat / 16 + 1, Memory.readBlock t.outBuf (16 * i) =
        match y with
        | .ecb => forward (paddedBlock s i) (schedule x (s.keyBytes x)) (nr x)
        | .cbc => forward (xorBlock (paddedBlock s i) (previous s.iv (fun j => Memory.readBlock t.outBuf (16 * j)) i))
            (schedule x (s.keyBytes x)) (nr x)) ∧
      (∀ j, 16 * (s.len.toNat / 16 + 1) ≤ j → t.outByte j = 0) ∧ SecretsZero t ∧ MessageFrame s t

/-- DECRYPT of blocks that decrypt, block by block, to a padded message: the result is the message without its padding,
OUT is zero above it, the secrets are zeroed, IN, LEN and GFR stay (spec/44_mode_controller.md sections 2 and 3). -/
def Obligations.DecryptBlockByBlock : Prop :=
  ∀ (x : Variant) (y : Mode) (s : State) (b r : List Byte) (p : Nat),
    s.keylen.toNat = keyLen x → s.len.toNat % 16 = 0 → (y = .cbc → s.ivp = true) → s.len.toNat ≤ s.maxLen →
    b.length = s.len.toNat → (∀ i < s.len.toNat / 16, blockOf b i = plainBlock s x y i) →
    1 ≤ p → p ≤ 16 → b = r ++ List.replicate p (BitVec.ofNat 8 p) →
    ∃ t, exec (decryptInstr x y) s = .next t ∧ EndsWith s t 0 ∧ t.outlen.toNat = s.len.toNat - p ∧ t.result = r ∧
      (∀ j, s.len.toNat - p ≤ j → t.outByte j = 0) ∧ SecretsZero t ∧ MessageFrame s t

/-- DECRYPT of blocks that do not decrypt to a padded message ends with InvalidPadding and returns nothing
(spec/44_mode_controller.md R232; spec/60_exceptions.md R267, R271). LEN = 0 is such a case. -/
def Obligations.DecryptRejectsBadPadding : Prop :=
  ∀ (x : Variant) (y : Mode) (s : State) (b : List Byte),
    s.keylen.toNat = keyLen x → s.len.toNat % 16 = 0 → (y = .cbc → s.ivp = true) → s.len.toNat ≤ s.maxLen →
    b.length = s.len.toNat → (∀ i < s.len.toNat / 16, blockOf b i = plainBlock s x y i) →
    (∀ (r : List Byte) (p : Nat), 1 ≤ p → p ≤ 16 → b ≠ r ++ List.replicate p (BitVec.ofNat 8 p)) →
    ∃ t, exec (decryptInstr x y) s = .next t ∧ EndsWith s t 0x04 ∧ ResultZero t ∧ SecretsZero t ∧ MessageFrame s t

/-- The errors of ENCRYPT and DECRYPT found before any block is processed, in the order of the checks
(spec/60_exceptions.md section 4), and the state after each (section 3): no result, the secrets zeroed. -/
def Obligations.MessageErrorsInOrder : Prop :=
  ∀ (x : Variant) (y : Mode) (s : State),
    (∀ i ∈ [encryptInstr x y, decryptInstr x y], s.keylen.toNat ≠ keyLen x →
      ∃ t, exec i s = .next t ∧ EndsWith s t 0x01 ∧ ResultZero t ∧ SecretsZero t ∧ MessageFrame s t) ∧
    (s.keylen.toNat = keyLen x → s.len.toNat % 16 ≠ 0 →
      ∃ t, exec (decryptInstr x y) s = .next t ∧ EndsWith s t 0x02 ∧ ResultZero t ∧ SecretsZero t ∧
        MessageFrame s t) ∧
    (s.keylen.toNat = keyLen x → y = .cbc → s.ivp = false →
      (∃ t, exec (encryptInstr x y) s = .next t ∧ EndsWith s t 0x03 ∧ ResultZero t ∧ SecretsZero t ∧
        MessageFrame s t) ∧
      (s.len.toNat % 16 = 0 → ∃ t, exec (decryptInstr x y) s = .next t ∧ EndsWith s t 0x03 ∧ ResultZero t ∧
        SecretsZero t ∧ MessageFrame s t)) ∧
    (s.keylen.toNat = keyLen x → (y = .cbc → s.ivp = true) →
      (s.maxLen ≤ s.len.toNat → ∃ t, exec (encryptInstr x y) s = .next t ∧ EndsWith s t 0x13 ∧ ResultZero t ∧
        SecretsZero t ∧ MessageFrame s t) ∧
      (s.len.toNat % 16 = 0 → s.maxLen < s.len.toNat → ∃ t, exec (decryptInstr x y) s = .next t ∧
        EndsWith s t 0x13 ∧ ResultZero t ∧ SecretsZero t ∧ MessageFrame s t))

/-- However ENCRYPT or DECRYPT ends, KEY, KEYLEN, IV, IVP, W, SCHED_VALID, SCHED_VAR, S and CHAIN are zero afterwards
and IN, LEN and GFR are not touched (spec/44_mode_controller.md R233). -/
def Obligations.MessageCommandsLeaveNoSecret : Prop :=
  ∀ (x : Variant) (y : Mode) (s : State), ∀ i ∈ [encryptInstr x y, decryptInstr x y],
    ∃ t, exec i s = .next t ∧ SecretsZero t ∧ MessageFrame s t

/-- Whole-message commands are functions of their inputs: from two states that agree on what the command reads they end
with the same result and the same ERRCODE (spec/95_test_vectors.md T2, spec/44_mode_controller.md section 6). In ECB
the IV is not among the inputs. -/
def Obligations.MessageResultDependsOnInputsOnly : Prop :=
  ∀ (x : Variant) (y : Mode) (s t : State), SameInputs x y s t →
    ∀ i ∈ [encryptInstr x y, decryptInstr x y],
      ∃ u v, exec i s = .next u ∧ exec i t = .next v ∧ SameOut u v ∧ v.errcode = u.errcode

/-- Round trip (spec/44_mode_controller.md section 6): a message encrypted by ENCRYPT, loaded back with the same key and
IV, is what DECRYPT returns. -/
def Obligations.DecryptUndoesEncrypt : Prop :=
  ∀ (x : Variant) (y : Mode) (s d : State), s.keylen.toNat = keyLen x → (y = .cbc → s.ivp = true) →
    s.len.toNat < s.maxLen →
    ∃ t, exec (encryptInstr x y) s = .next t ∧ t.errcode = 0 ∧
      (d.key = s.key → d.keylen = s.keylen → d.iv = s.iv → d.ivp = s.ivp → d.maxLen = s.maxLen →
        d.len = t.outlen → (∀ j < t.outlen.toNat, d.inByte j = t.outByte j) →
        ∃ u, exec (decryptInstr x y) d = .next u ∧ u.errcode = 0 ∧ u.outlen = s.len ∧ u.result = s.message)

/-- The reference sequence of ENCRYPT reaches the completion state of the command, in whatever order and whatever
batches of lanes the independent block transforms of ECB are done (spec/44_mode_controller.md R236, R240, R241). -/
def Obligations.EncryptSequenceReachesCompletion : Prop :=
  ∀ (x : Variant) (y : Mode) (s : State) (batches : List (List Nat)),
    s.keylen.toNat = keyLen x → (y = .cbc → s.ivp = true) → s.len.toNat < s.maxLen → Memory.wf s.outBuf = true →
    batches.flatten.Perm (List.range (s.len.toNat / 16 + 1)) →
    exec (encryptInstr x y) s = encryptSequence s x y batches

/-- The reference sequence of DECRYPT, for CBC in two phases, reaches the completion state of the command, in whatever
order and batches the inverse transforms are done (spec/44_mode_controller.md R236, R242, R243). -/
def Obligations.DecryptSequenceReachesCompletion : Prop :=
  ∀ (x : Variant) (y : Mode) (s : State) (batches : List (List Nat)),
    s.keylen.toNat = keyLen x → s.len.toNat % 16 = 0 → (y = .cbc → s.ivp = true) → s.len.toNat ≤ s.maxLen →
    Memory.wf s.outBuf = true → batches.flatten.Perm (List.range (s.len.toNat / 16)) →
    exec (decryptInstr x y) s = decryptSequence s x y batches

/-- The batches of LANES pipelines hold every block once, in increasing index, at most LANES in a batch
(spec/44_mode_controller.md R236, log 5). -/
def Obligations.LaneBatchesCoverBlocksOnce : Prop :=
  ∀ (cfg : Config) (n : Nat), (laneBatches cfg n).flatten = List.range n ∧
    ∀ batch ∈ laneBatches cfg n, batch.length ≤ cfg.lanes

/-- The primitive commands of spec/44_mode_controller.md R245 leave the same OUT and OUTLEN as ENCRYPT from the same
state. -/
def Obligations.PrimitiveCommandsDoEncrypt : Prop :=
  ∀ (x : Variant) (y : Mode) (s : State), BuffersOk s → s.outlen = 0 → s.keylen.toNat = keyLen x →
    (y = .cbc → s.ivp = true) → s.len.toNat < s.maxLen →
    ∃ t u, execAll (encryptSteps x y (s.len.toNat / 16 + 1)) s = .next t ∧ exec (encryptInstr x y) s = .next u ∧
      SameOut u t

/-- The primitive commands of spec/44_mode_controller.md R245 leave the same OUT, OUTLEN and ERRCODE as DECRYPT from
the same state, whether the padding is valid or not. -/
def Obligations.PrimitiveCommandsDoDecrypt : Prop :=
  ∀ (x : Variant) (y : Mode) (s : State), BuffersOk s → s.outlen = 0 → s.keylen.toNat = keyLen x →
    (y = .cbc → s.ivp = true) → s.len.toNat % 16 = 0 → 0 < s.len.toNat → s.len.toNat ≤ s.maxLen →
    ∃ t u, execAll (decryptSteps x y (s.len.toNat / 16)) s = .next t ∧ exec (decryptInstr x y) s = .next u ∧
      SameOut u t ∧ t.errcode = u.errcode
end

