-- ==== Sys2Proof/Laws/Blocks.lean ====
section
/-! SUPPORT. Bytes of words, matrices and linear blocks: what each operand form reads, and which forms are inverse. -/

namespace Sys2Proof.Machine

/-! ## Words and their bytes -/

theorem be32_getLsbD (a b c d : Byte) (i : Nat) :
    (be32 a b c d).getLsbD i =
      if i < 8 then d.getLsbD i else if i < 16 then c.getLsbD (i - 8)
      else if i < 24 then b.getLsbD (i - 16) else a.getLsbD (i - 24) := by
  change (a ++ b ++ c ++ d : BitVec (8 + 8 + 8 + 8)).getLsbD i = _
  simp only [BitVec.getLsbD_append, Nat.sub_sub]
  split_ifs <;> first | rfl | omega

theorem byteOf_getLsbD (v : Word) (k i : Nat) :
    (byteOf v k).getLsbD i = (decide (i < 8) && v.getLsbD (24 - 8 * k + i)) := by
  simp [byteOf, BitVec.getLsbD_extractLsb']

theorem byteOf_be32 (a b c d : Byte) :
    byteOf (be32 a b c d) 0 = a ∧ byteOf (be32 a b c d) 1 = b ∧ byteOf (be32 a b c d) 2 = c ∧
      byteOf (be32 a b c d) 3 = d := by
  refine ⟨?_, ?_, ?_, ?_⟩ <;>
  · refine BitVec.eq_of_getLsbD_eq fun i hi => ?_
    simp only [byteOf_getLsbD, be32_getLsbD, hi, decide_true, Bool.true_and]
    split_ifs <;> first | omega | (congr 1; omega)

theorem be32_byteOf (v : Word) : be32 (byteOf v 0) (byteOf v 1) (byteOf v 2) (byteOf v 3) = v := by
  refine BitVec.eq_of_getLsbD_eq fun i hi => ?_
  have byte (k : Nat) (h : 24 - 8 * k ≤ i ∧ i < 24 - 8 * k + 8) :
      (byteOf v k).getLsbD (i - (24 - 8 * k)) = v.getLsbD i := by
    rw [byteOf_getLsbD, decide_eq_true (by omega), Bool.true_and, Nat.add_sub_cancel' h.1]
  rw [be32_getLsbD]
  split_ifs
  · exact byte 3 (by omega)
  · exact byte 2 (by omega)
  · exact byte 1 (by omega)
  · exact byte 0 (by omega)

theorem byteOf_xor (v w : Word) (k : Nat) : byteOf (v ^^^ w) k = byteOf v k ^^^ byteOf w k := by
  refine BitVec.eq_of_getLsbD_eq fun i hi => ?_
  simp only [BitVec.getLsbD_xor, byteOf_getLsbD, Bool.and_xor_distrib_left]

theorem be32_xor (a b c d a' b' c' d' : Byte) :
    be32 a b c d ^^^ be32 a' b' c' d' = be32 (a ^^^ a') (b ^^^ b') (c ^^^ c') (d ^^^ d') := by
  refine BitVec.eq_of_getLsbD_eq fun i hi => ?_
  simp only [BitVec.getLsbD_xor, be32_getLsbD]
  split_ifs <;> rfl

/-! ## Matrices -/

@[simp] theorem Mat.ofFn_getElem (f : Fin 4 → Fin 4 → Byte) (r c : Nat) (hr : r < 4) (hc : c < 4) :
    (Mat.ofFn f)[r][c] = f ⟨r, hr⟩ ⟨c, hc⟩ := by
  simp [Mat.ofFn]

theorem Mat.ext_entries {s t : Mat} (h : ∀ r c : Fin 4, s[r][c] = t[r][c]) : s = t :=
  Vector.ext fun r hr => Vector.ext fun c hc => h ⟨r, hr⟩ ⟨c, hc⟩

@[simp] theorem toState_getElem (l : Block) (r c : Nat) (hr : r < 4) (hc : c < 4) :
    (toState l)[r][c] = l[r + 4 * c] := by
  simp [toState]

@[simp] theorem toLinear_getElem (s : Mat) (j : Nat) (h : j < 16) : (toLinear s)[j] = s[j % 4][j / 4] := by
  simp [toLinear]

@[simp] theorem toState_toLinear (s : Mat) : toState (toLinear s) = s := by
  refine Mat.ext_entries fun r c => ?_
  have hr : (r.val + 4 * c.val) % 4 = r.val := by omega
  have hc : (r.val + 4 * c.val) / 4 = c.val := by omega
  simp [hr, hc]

@[simp] theorem toLinear_toState (l : Block) : toLinear (toState l) = l := by
  refine Vector.ext fun j hj => ?_
  have : j % 4 + 4 * (j / 4) = j := Nat.mod_add_div j 4
  simp [this]

/-! ## Blocks -/

@[simp] theorem xorBlock_getElem (a b : Block) (k : Nat) (h : k < 16) : (xorBlock a b)[k] = a[k] ^^^ b[k] := by
  simp [xorBlock]

theorem xorBlock_self_right (a b : Block) : xorBlock (xorBlock a b) b = a := by
  refine Vector.ext fun k hk => ?_
  simp

@[simp] theorem Memory.readBlock_getElem (m : Memory) (a k : Nat) (h : k < 16) :
    (Memory.readBlock m a)[k] = Memory.read m (a + k) := by
  simp [Memory.readBlock]

@[simp] theorem blockOf_getElem (b : List Byte) (i k : Nat) (h : k < 16) : (blockOf b i)[k] = b.getD (16 * i + k) 0 := by
  simp [blockOf]

@[simp] theorem split_length (b : List Byte) : (split b).length = b.length / 16 := by simp [split]

theorem merge_length (bs : List Block) : (merge bs).length = 16 * bs.length := by
  induction bs with
  | nil => rfl
  | cons b bs ih => simp only [merge, List.flatMap_cons, List.length_append, List.length_cons] at ih ⊢; simp [ih]; omega

/-- The bytes of merged blocks are those of the blocks, in order. -/
theorem blockOf_merge (bs : List Block) (i : Nat) (h : i < bs.length) : blockOf (merge bs) i = bs[i] := by
  induction bs generalizing i with
  | nil => simp at h
  | cons b bs ih =>
    refine Vector.ext fun k hk => ?_
    cases i with
    | zero => simp [merge, List.getElem?_append_left, hk]
    | succ i =>
      have h' : i < bs.length := by simpa using h
      have e : 16 * (i + 1) + k = b.toList.length + (16 * i + k) := by simp; omega
      have := congrArg (fun x : Block => x[k]) (ih i h')
      simp only [blockOf_getElem] at this
      rw [blockOf_getElem, merge, List.flatMap_cons, e]
      simpa [List.getElem?_append_right, merge] using this

end Sys2Proof.Machine
end

