-- ==== Sys2Proof/Laws/State.lean ====
section
/-! SUPPORT. One lemma per field per named update of State, so that no later proof unfolds a record update. -/

namespace Sys2Proof.Machine

/-! ### completeFlags -/

section
variable (s : State) (code : Byte)

@[simp] theorem completeFlags_key : (completeFlags s code).key = s.key := rfl
@[simp] theorem completeFlags_keylen : (completeFlags s code).keylen = s.keylen := rfl
@[simp] theorem completeFlags_iv : (completeFlags s code).iv = s.iv := rfl
@[simp] theorem completeFlags_ivp : (completeFlags s code).ivp = s.ivp := rfl
@[simp] theorem completeFlags_st : (completeFlags s code).st = s.st := rfl
@[simp] theorem completeFlags_chain : (completeFlags s code).chain = s.chain := rfl
@[simp] theorem completeFlags_w : (completeFlags s code).w = s.w := rfl
@[simp] theorem completeFlags_schedValid : (completeFlags s code).schedValid = s.schedValid := rfl
@[simp] theorem completeFlags_schedVar : (completeFlags s code).schedVar = s.schedVar := rfl
@[simp] theorem completeFlags_gfr : (completeFlags s code).gfr = s.gfr := rfl
@[simp] theorem completeFlags_inBuf : (completeFlags s code).inBuf = s.inBuf := rfl
@[simp] theorem completeFlags_len : (completeFlags s code).len = s.len := rfl
@[simp] theorem completeFlags_outBuf : (completeFlags s code).outBuf = s.outBuf := rfl
@[simp] theorem completeFlags_outlen : (completeFlags s code).outlen = s.outlen := rfl
@[simp] theorem completeFlags_busy : (completeFlags s code).busy = false := rfl
@[simp] theorem completeFlags_done : (completeFlags s code).done = true := rfl
@[simp] theorem completeFlags_errcode : (completeFlags s code).errcode = code := rfl
@[simp] theorem completeFlags_lastcmd : (completeFlags s code).lastcmd = s.lastcmd := rfl
@[simp] theorem completeFlags_seq : (completeFlags s code).seq = .idle := rfl
@[simp] theorem completeFlags_cfg : (completeFlags s code).cfg = s.cfg := rfl
@[simp] theorem completeFlags_pending : (completeFlags s code).pending = s.pending := rfl
@[simp] theorem completeFlags_answers : (completeFlags s code).answers = s.answers := rfl
@[simp] theorem completeFlags_delays : (completeFlags s code).delays = s.delays := rfl

end

/-! ### launchFlags -/

section
variable (s : State) (v : Word)

@[simp] theorem launchFlags_key : (launchFlags s v).key = s.key := rfl
@[simp] theorem launchFlags_keylen : (launchFlags s v).keylen = s.keylen := rfl
@[simp] theorem launchFlags_iv : (launchFlags s v).iv = s.iv := rfl
@[simp] theorem launchFlags_ivp : (launchFlags s v).ivp = s.ivp := rfl
@[simp] theorem launchFlags_st : (launchFlags s v).st = s.st := rfl
@[simp] theorem launchFlags_chain : (launchFlags s v).chain = s.chain := rfl
@[simp] theorem launchFlags_w : (launchFlags s v).w = s.w := rfl
@[simp] theorem launchFlags_schedValid : (launchFlags s v).schedValid = s.schedValid := rfl
@[simp] theorem launchFlags_schedVar : (launchFlags s v).schedVar = s.schedVar := rfl
@[simp] theorem launchFlags_gfr : (launchFlags s v).gfr = s.gfr := rfl
@[simp] theorem launchFlags_inBuf : (launchFlags s v).inBuf = s.inBuf := rfl
@[simp] theorem launchFlags_len : (launchFlags s v).len = s.len := rfl
@[simp] theorem launchFlags_outBuf : (launchFlags s v).outBuf = s.outBuf := rfl
@[simp] theorem launchFlags_outlen : (launchFlags s v).outlen = s.outlen := rfl
@[simp] theorem launchFlags_busy : (launchFlags s v).busy = true := rfl
@[simp] theorem launchFlags_done : (launchFlags s v).done = false := rfl
@[simp] theorem launchFlags_errcode : (launchFlags s v).errcode = 0 := rfl
@[simp] theorem launchFlags_lastcmd : (launchFlags s v).lastcmd = v := rfl
@[simp] theorem launchFlags_seq : (launchFlags s v).seq = s.seq := rfl
@[simp] theorem launchFlags_cfg : (launchFlags s v).cfg = s.cfg := rfl
@[simp] theorem launchFlags_pending : (launchFlags s v).pending = s.pending := rfl
@[simp] theorem launchFlags_answers : (launchFlags s v).answers = s.answers := rfl
@[simp] theorem launchFlags_delays : (launchFlags s v).delays = s.delays := rfl

end

/-! ### consumeKey -/

section
variable (s : State)

@[simp] theorem consumeKey_key : (s.consumeKey).key = Vector.replicate 32 0 := rfl
@[simp] theorem consumeKey_keylen : (s.consumeKey).keylen = 0 := rfl
@[simp] theorem consumeKey_iv : (s.consumeKey).iv = s.iv := rfl
@[simp] theorem consumeKey_ivp : (s.consumeKey).ivp = s.ivp := rfl
@[simp] theorem consumeKey_st : (s.consumeKey).st = s.st := rfl
@[simp] theorem consumeKey_chain : (s.consumeKey).chain = s.chain := rfl
@[simp] theorem consumeKey_w : (s.consumeKey).w = s.w := rfl
@[simp] theorem consumeKey_schedValid : (s.consumeKey).schedValid = s.schedValid := rfl
@[simp] theorem consumeKey_schedVar : (s.consumeKey).schedVar = s.schedVar := rfl
@[simp] theorem consumeKey_gfr : (s.consumeKey).gfr = s.gfr := rfl
@[simp] theorem consumeKey_inBuf : (s.consumeKey).inBuf = s.inBuf := rfl
@[simp] theorem consumeKey_len : (s.consumeKey).len = s.len := rfl
@[simp] theorem consumeKey_outBuf : (s.consumeKey).outBuf = s.outBuf := rfl
@[simp] theorem consumeKey_outlen : (s.consumeKey).outlen = s.outlen := rfl
@[simp] theorem consumeKey_busy : (s.consumeKey).busy = s.busy := rfl
@[simp] theorem consumeKey_done : (s.consumeKey).done = s.done := rfl
@[simp] theorem consumeKey_errcode : (s.consumeKey).errcode = s.errcode := rfl
@[simp] theorem consumeKey_lastcmd : (s.consumeKey).lastcmd = s.lastcmd := rfl
@[simp] theorem consumeKey_seq : (s.consumeKey).seq = s.seq := rfl
@[simp] theorem consumeKey_cfg : (s.consumeKey).cfg = s.cfg := rfl
@[simp] theorem consumeKey_pending : (s.consumeKey).pending = s.pending := rfl
@[simp] theorem consumeKey_answers : (s.consumeKey).answers = s.answers := rfl
@[simp] theorem consumeKey_delays : (s.consumeKey).delays = s.delays := rfl

end

/-! ### wipeSecrets -/

section
variable (s : State)

@[simp] theorem wipeSecrets_key : (s.wipeSecrets).key = Vector.replicate 32 0 := rfl
@[simp] theorem wipeSecrets_keylen : (s.wipeSecrets).keylen = 0 := rfl
@[simp] theorem wipeSecrets_iv : (s.wipeSecrets).iv = Vector.replicate 16 0 := rfl
@[simp] theorem wipeSecrets_ivp : (s.wipeSecrets).ivp = false := rfl
@[simp] theorem wipeSecrets_st : (s.wipeSecrets).st = Vector.replicate 4 (Vector.replicate 4 0) := rfl
@[simp] theorem wipeSecrets_chain : (s.wipeSecrets).chain = Vector.replicate 16 0 := rfl
@[simp] theorem wipeSecrets_w : (s.wipeSecrets).w = Vector.replicate 60 0 := rfl
@[simp] theorem wipeSecrets_schedValid : (s.wipeSecrets).schedValid = false := rfl
@[simp] theorem wipeSecrets_schedVar : (s.wipeSecrets).schedVar = 0 := rfl
@[simp] theorem wipeSecrets_gfr : (s.wipeSecrets).gfr = s.gfr := rfl
@[simp] theorem wipeSecrets_inBuf : (s.wipeSecrets).inBuf = s.inBuf := rfl
@[simp] theorem wipeSecrets_len : (s.wipeSecrets).len = s.len := rfl
@[simp] theorem wipeSecrets_outBuf : (s.wipeSecrets).outBuf = s.outBuf := rfl
@[simp] theorem wipeSecrets_outlen : (s.wipeSecrets).outlen = s.outlen := rfl
@[simp] theorem wipeSecrets_busy : (s.wipeSecrets).busy = s.busy := rfl
@[simp] theorem wipeSecrets_done : (s.wipeSecrets).done = s.done := rfl
@[simp] theorem wipeSecrets_errcode : (s.wipeSecrets).errcode = s.errcode := rfl
@[simp] theorem wipeSecrets_lastcmd : (s.wipeSecrets).lastcmd = s.lastcmd := rfl
@[simp] theorem wipeSecrets_seq : (s.wipeSecrets).seq = s.seq := rfl
@[simp] theorem wipeSecrets_cfg : (s.wipeSecrets).cfg = s.cfg := rfl
@[simp] theorem wipeSecrets_pending : (s.wipeSecrets).pending = s.pending := rfl
@[simp] theorem wipeSecrets_answers : (s.wipeSecrets).answers = s.answers := rfl
@[simp] theorem wipeSecrets_delays : (s.wipeSecrets).delays = s.delays := rfl

end

/-! ### setResult -/

section
variable (s : State) (r : List Byte)

@[simp] theorem setResult_key : (s.setResult r).key = s.key := rfl
@[simp] theorem setResult_keylen : (s.setResult r).keylen = s.keylen := rfl
@[simp] theorem setResult_iv : (s.setResult r).iv = s.iv := rfl
@[simp] theorem setResult_ivp : (s.setResult r).ivp = s.ivp := rfl
@[simp] theorem setResult_st : (s.setResult r).st = s.st := rfl
@[simp] theorem setResult_chain : (s.setResult r).chain = s.chain := rfl
@[simp] theorem setResult_w : (s.setResult r).w = s.w := rfl
@[simp] theorem setResult_schedValid : (s.setResult r).schedValid = s.schedValid := rfl
@[simp] theorem setResult_schedVar : (s.setResult r).schedVar = s.schedVar := rfl
@[simp] theorem setResult_gfr : (s.setResult r).gfr = s.gfr := rfl
@[simp] theorem setResult_inBuf : (s.setResult r).inBuf = s.inBuf := rfl
@[simp] theorem setResult_len : (s.setResult r).len = s.len := rfl
@[simp] theorem setResult_outBuf : (s.setResult r).outBuf = Memory.ofBytes r := rfl
@[simp] theorem setResult_outlen : (s.setResult r).outlen = BitVec.ofNat 32 r.length := rfl
@[simp] theorem setResult_busy : (s.setResult r).busy = s.busy := rfl
@[simp] theorem setResult_done : (s.setResult r).done = s.done := rfl
@[simp] theorem setResult_errcode : (s.setResult r).errcode = s.errcode := rfl
@[simp] theorem setResult_lastcmd : (s.setResult r).lastcmd = s.lastcmd := rfl
@[simp] theorem setResult_seq : (s.setResult r).seq = s.seq := rfl
@[simp] theorem setResult_cfg : (s.setResult r).cfg = s.cfg := rfl
@[simp] theorem setResult_pending : (s.setResult r).pending = s.pending := rfl
@[simp] theorem setResult_answers : (s.setResult r).answers = s.answers := rfl
@[simp] theorem setResult_delays : (s.setResult r).delays = s.delays := rfl

end

/-! ### noResult -/

section
variable (s : State)

@[simp] theorem noResult_key : (s.noResult).key = s.key := rfl
@[simp] theorem noResult_keylen : (s.noResult).keylen = s.keylen := rfl
@[simp] theorem noResult_iv : (s.noResult).iv = s.iv := rfl
@[simp] theorem noResult_ivp : (s.noResult).ivp = s.ivp := rfl
@[simp] theorem noResult_st : (s.noResult).st = s.st := rfl
@[simp] theorem noResult_chain : (s.noResult).chain = s.chain := rfl
@[simp] theorem noResult_w : (s.noResult).w = s.w := rfl
@[simp] theorem noResult_schedValid : (s.noResult).schedValid = s.schedValid := rfl
@[simp] theorem noResult_schedVar : (s.noResult).schedVar = s.schedVar := rfl
@[simp] theorem noResult_gfr : (s.noResult).gfr = s.gfr := rfl
@[simp] theorem noResult_inBuf : (s.noResult).inBuf = s.inBuf := rfl
@[simp] theorem noResult_len : (s.noResult).len = s.len := rfl
@[simp] theorem noResult_outBuf : (s.noResult).outBuf = [] := rfl
@[simp] theorem noResult_outlen : (s.noResult).outlen = 0 := rfl
@[simp] theorem noResult_busy : (s.noResult).busy = s.busy := rfl
@[simp] theorem noResult_done : (s.noResult).done = s.done := rfl
@[simp] theorem noResult_errcode : (s.noResult).errcode = s.errcode := rfl
@[simp] theorem noResult_lastcmd : (s.noResult).lastcmd = s.lastcmd := rfl
@[simp] theorem noResult_seq : (s.noResult).seq = s.seq := rfl
@[simp] theorem noResult_cfg : (s.noResult).cfg = s.cfg := rfl
@[simp] theorem noResult_pending : (s.noResult).pending = s.pending := rfl
@[simp] theorem noResult_answers : (s.noResult).answers = s.answers := rfl
@[simp] theorem noResult_delays : (s.noResult).delays = s.delays := rfl

end

/-! ### setSchedule -/

section
variable (s : State) (x : Variant) (w : Schedule)

@[simp] theorem setSchedule_key : (s.setSchedule x w).key = s.key := rfl
@[simp] theorem setSchedule_keylen : (s.setSchedule x w).keylen = s.keylen := rfl
@[simp] theorem setSchedule_iv : (s.setSchedule x w).iv = s.iv := rfl
@[simp] theorem setSchedule_ivp : (s.setSchedule x w).ivp = s.ivp := rfl
@[simp] theorem setSchedule_st : (s.setSchedule x w).st = s.st := rfl
@[simp] theorem setSchedule_chain : (s.setSchedule x w).chain = s.chain := rfl
@[simp] theorem setSchedule_w : (s.setSchedule x w).w = w := rfl
@[simp] theorem setSchedule_schedValid : (s.setSchedule x w).schedValid = true := rfl
@[simp] theorem setSchedule_schedVar : (s.setSchedule x w).schedVar = x.code := rfl
@[simp] theorem setSchedule_gfr : (s.setSchedule x w).gfr = s.gfr := rfl
@[simp] theorem setSchedule_inBuf : (s.setSchedule x w).inBuf = s.inBuf := rfl
@[simp] theorem setSchedule_len : (s.setSchedule x w).len = s.len := rfl
@[simp] theorem setSchedule_outBuf : (s.setSchedule x w).outBuf = s.outBuf := rfl
@[simp] theorem setSchedule_outlen : (s.setSchedule x w).outlen = s.outlen := rfl
@[simp] theorem setSchedule_busy : (s.setSchedule x w).busy = s.busy := rfl
@[simp] theorem setSchedule_done : (s.setSchedule x w).done = s.done := rfl
@[simp] theorem setSchedule_errcode : (s.setSchedule x w).errcode = s.errcode := rfl
@[simp] theorem setSchedule_lastcmd : (s.setSchedule x w).lastcmd = s.lastcmd := rfl
@[simp] theorem setSchedule_seq : (s.setSchedule x w).seq = s.seq := rfl
@[simp] theorem setSchedule_cfg : (s.setSchedule x w).cfg = s.cfg := rfl
@[simp] theorem setSchedule_pending : (s.setSchedule x w).pending = s.pending := rfl
@[simp] theorem setSchedule_answers : (s.setSchedule x w).answers = s.answers := rfl
@[simp] theorem setSchedule_delays : (s.setSchedule x w).delays = s.delays := rfl

end

/-! ### setSt -/

section
variable (s : State) (m : Mat)

@[simp] theorem setSt_key : (s.setSt m).key = s.key := rfl
@[simp] theorem setSt_keylen : (s.setSt m).keylen = s.keylen := rfl
@[simp] theorem setSt_iv : (s.setSt m).iv = s.iv := rfl
@[simp] theorem setSt_ivp : (s.setSt m).ivp = s.ivp := rfl
@[simp] theorem setSt_st : (s.setSt m).st = m := rfl
@[simp] theorem setSt_chain : (s.setSt m).chain = s.chain := rfl
@[simp] theorem setSt_w : (s.setSt m).w = s.w := rfl
@[simp] theorem setSt_schedValid : (s.setSt m).schedValid = s.schedValid := rfl
@[simp] theorem setSt_schedVar : (s.setSt m).schedVar = s.schedVar := rfl
@[simp] theorem setSt_gfr : (s.setSt m).gfr = s.gfr := rfl
@[simp] theorem setSt_inBuf : (s.setSt m).inBuf = s.inBuf := rfl
@[simp] theorem setSt_len : (s.setSt m).len = s.len := rfl
@[simp] theorem setSt_outBuf : (s.setSt m).outBuf = s.outBuf := rfl
@[simp] theorem setSt_outlen : (s.setSt m).outlen = s.outlen := rfl
@[simp] theorem setSt_busy : (s.setSt m).busy = s.busy := rfl
@[simp] theorem setSt_done : (s.setSt m).done = s.done := rfl
@[simp] theorem setSt_errcode : (s.setSt m).errcode = s.errcode := rfl
@[simp] theorem setSt_lastcmd : (s.setSt m).lastcmd = s.lastcmd := rfl
@[simp] theorem setSt_seq : (s.setSt m).seq = s.seq := rfl
@[simp] theorem setSt_cfg : (s.setSt m).cfg = s.cfg := rfl
@[simp] theorem setSt_pending : (s.setSt m).pending = s.pending := rfl
@[simp] theorem setSt_answers : (s.setSt m).answers = s.answers := rfl
@[simp] theorem setSt_delays : (s.setSt m).delays = s.delays := rfl

end

/-! ### setChain -/

section
variable (s : State) (b : Block)

@[simp] theorem setChain_key : (s.setChain b).key = s.key := rfl
@[simp] theorem setChain_keylen : (s.setChain b).keylen = s.keylen := rfl
@[simp] theorem setChain_iv : (s.setChain b).iv = s.iv := rfl
@[simp] theorem setChain_ivp : (s.setChain b).ivp = s.ivp := rfl
@[simp] theorem setChain_st : (s.setChain b).st = s.st := rfl
@[simp] theorem setChain_chain : (s.setChain b).chain = b := rfl
@[simp] theorem setChain_w : (s.setChain b).w = s.w := rfl
@[simp] theorem setChain_schedValid : (s.setChain b).schedValid = s.schedValid := rfl
@[simp] theorem setChain_schedVar : (s.setChain b).schedVar = s.schedVar := rfl
@[simp] theorem setChain_gfr : (s.setChain b).gfr = s.gfr := rfl
@[simp] theorem setChain_inBuf : (s.setChain b).inBuf = s.inBuf := rfl
@[simp] theorem setChain_len : (s.setChain b).len = s.len := rfl
@[simp] theorem setChain_outBuf : (s.setChain b).outBuf = s.outBuf := rfl
@[simp] theorem setChain_outlen : (s.setChain b).outlen = s.outlen := rfl
@[simp] theorem setChain_busy : (s.setChain b).busy = s.busy := rfl
@[simp] theorem setChain_done : (s.setChain b).done = s.done := rfl
@[simp] theorem setChain_errcode : (s.setChain b).errcode = s.errcode := rfl
@[simp] theorem setChain_lastcmd : (s.setChain b).lastcmd = s.lastcmd := rfl
@[simp] theorem setChain_seq : (s.setChain b).seq = s.seq := rfl
@[simp] theorem setChain_cfg : (s.setChain b).cfg = s.cfg := rfl
@[simp] theorem setChain_pending : (s.setChain b).pending = s.pending := rfl
@[simp] theorem setChain_answers : (s.setChain b).answers = s.answers := rfl
@[simp] theorem setChain_delays : (s.setChain b).delays = s.delays := rfl

end

/-! ### cleared -/

section
variable (s : State)

@[simp] theorem cleared_key : (s.cleared).key = Vector.replicate 32 0 := rfl
@[simp] theorem cleared_keylen : (s.cleared).keylen = 0 := rfl
@[simp] theorem cleared_iv : (s.cleared).iv = Vector.replicate 16 0 := rfl
@[simp] theorem cleared_ivp : (s.cleared).ivp = false := rfl
@[simp] theorem cleared_st : (s.cleared).st = Vector.replicate 4 (Vector.replicate 4 0) := rfl
@[simp] theorem cleared_chain : (s.cleared).chain = Vector.replicate 16 0 := rfl
@[simp] theorem cleared_w : (s.cleared).w = Vector.replicate 60 0 := rfl
@[simp] theorem cleared_schedValid : (s.cleared).schedValid = false := rfl
@[simp] theorem cleared_schedVar : (s.cleared).schedVar = 0 := rfl
@[simp] theorem cleared_gfr : (s.cleared).gfr = 0 := rfl
@[simp] theorem cleared_inBuf : (s.cleared).inBuf = [] := rfl
@[simp] theorem cleared_len : (s.cleared).len = 0 := rfl
@[simp] theorem cleared_outBuf : (s.cleared).outBuf = [] := rfl
@[simp] theorem cleared_outlen : (s.cleared).outlen = 0 := rfl
@[simp] theorem cleared_busy : (s.cleared).busy = s.busy := rfl
@[simp] theorem cleared_done : (s.cleared).done = s.done := rfl
@[simp] theorem cleared_errcode : (s.cleared).errcode = s.errcode := rfl
@[simp] theorem cleared_lastcmd : (s.cleared).lastcmd = s.lastcmd := rfl
@[simp] theorem cleared_seq : (s.cleared).seq = s.seq := rfl
@[simp] theorem cleared_cfg : (s.cleared).cfg = s.cfg := rfl
@[simp] theorem cleared_pending : (s.cleared).pending = s.pending := rfl
@[simp] theorem cleared_answers : (s.cleared).answers = s.answers := rfl
@[simp] theorem cleared_delays : (s.cleared).delays = s.delays := rfl

end

/-! ### answer -/

section
variable (s : State) (rest : List HostOp) (a : Answer)

@[simp] theorem answer_key : (answer s rest a).key = s.key := rfl
@[simp] theorem answer_keylen : (answer s rest a).keylen = s.keylen := rfl
@[simp] theorem answer_iv : (answer s rest a).iv = s.iv := rfl
@[simp] theorem answer_ivp : (answer s rest a).ivp = s.ivp := rfl
@[simp] theorem answer_st : (answer s rest a).st = s.st := rfl
@[simp] theorem answer_chain : (answer s rest a).chain = s.chain := rfl
@[simp] theorem answer_w : (answer s rest a).w = s.w := rfl
@[simp] theorem answer_schedValid : (answer s rest a).schedValid = s.schedValid := rfl
@[simp] theorem answer_schedVar : (answer s rest a).schedVar = s.schedVar := rfl
@[simp] theorem answer_gfr : (answer s rest a).gfr = s.gfr := rfl
@[simp] theorem answer_inBuf : (answer s rest a).inBuf = s.inBuf := rfl
@[simp] theorem answer_len : (answer s rest a).len = s.len := rfl
@[simp] theorem answer_outBuf : (answer s rest a).outBuf = s.outBuf := rfl
@[simp] theorem answer_outlen : (answer s rest a).outlen = s.outlen := rfl
@[simp] theorem answer_busy : (answer s rest a).busy = s.busy := rfl
@[simp] theorem answer_done : (answer s rest a).done = s.done := rfl
@[simp] theorem answer_errcode : (answer s rest a).errcode = s.errcode := rfl
@[simp] theorem answer_lastcmd : (answer s rest a).lastcmd = s.lastcmd := rfl
@[simp] theorem answer_seq : (answer s rest a).seq = s.seq := rfl
@[simp] theorem answer_cfg : (answer s rest a).cfg = s.cfg := rfl
@[simp] theorem answer_pending : (answer s rest a).pending = rest := rfl
@[simp] theorem answer_answers : (answer s rest a).answers = a :: s.answers := rfl
@[simp] theorem answer_delays : (answer s rest a).delays = s.delays := rfl

end

/-! ### resetEngine -/

section
variable (s : State)

@[simp] theorem resetEngine_key : (resetEngine s).key = Vector.replicate 32 0 := rfl
@[simp] theorem resetEngine_keylen : (resetEngine s).keylen = 0 := rfl
@[simp] theorem resetEngine_iv : (resetEngine s).iv = Vector.replicate 16 0 := rfl
@[simp] theorem resetEngine_ivp : (resetEngine s).ivp = false := rfl
@[simp] theorem resetEngine_st : (resetEngine s).st = Vector.replicate 4 (Vector.replicate 4 0) := rfl
@[simp] theorem resetEngine_chain : (resetEngine s).chain = Vector.replicate 16 0 := rfl
@[simp] theorem resetEngine_w : (resetEngine s).w = Vector.replicate 60 0 := rfl
@[simp] theorem resetEngine_schedValid : (resetEngine s).schedValid = false := rfl
@[simp] theorem resetEngine_schedVar : (resetEngine s).schedVar = 0 := rfl
@[simp] theorem resetEngine_gfr : (resetEngine s).gfr = 0 := rfl
@[simp] theorem resetEngine_inBuf : (resetEngine s).inBuf = [] := rfl
@[simp] theorem resetEngine_len : (resetEngine s).len = 0 := rfl
@[simp] theorem resetEngine_outBuf : (resetEngine s).outBuf = [] := rfl
@[simp] theorem resetEngine_outlen : (resetEngine s).outlen = 0 := rfl
@[simp] theorem resetEngine_busy : (resetEngine s).busy = false := rfl
@[simp] theorem resetEngine_done : (resetEngine s).done = false := rfl
@[simp] theorem resetEngine_errcode : (resetEngine s).errcode = 0 := rfl
@[simp] theorem resetEngine_lastcmd : (resetEngine s).lastcmd = 0 := rfl
@[simp] theorem resetEngine_seq : (resetEngine s).seq = .idle := rfl
@[simp] theorem resetEngine_cfg : (resetEngine s).cfg = s.cfg := rfl
@[simp] theorem resetEngine_pending : (resetEngine s).pending = s.pending := rfl
@[simp] theorem resetEngine_answers : (resetEngine s).answers = s.answers := rfl
@[simp] theorem resetEngine_delays : (resetEngine s).delays = s.delays := rfl

end

end Sys2Proof.Machine
end

