-- ==== Sys2Proof/Laws/Exec.lean ====
section
/-! SUPPORT. For each shared operation and each meaning with a check, one lemma that says everything it can answer. -/

namespace Sys2Proof.Machine

/-! ## The two ways to end -/

@[simp] theorem State.complete_eq (s : State) : s.complete = .next (completeFlags s 0) := rfl

@[simp] theorem State.raise_eq (s : State) (e : CmdError) : s.raise e = .next (completeFlags s (errorCode e)) := rfl

@[simp] theorem failMessage_eq (s : State) (e : CmdError) :
    failMessage s e = .next (completeFlags s.noResult.wipeSecrets (errorCode e)) := rfl

@[simp] theorem endMessage_eq (s : State) (r : List Byte) :
    endMessage s r = .next (completeFlags (s.setResult r).wipeSecrets 0) := rfl

/-! ## Key schedule and rounds -/

theorem expandCommand_cases (x : Variant) (s : State) :
    (s.keylen.toNat ≠ keyLen x ∧
      expandCommand x s = .next (completeFlags s.consumeKey (errorCode .invalidKeyLength))) ∨
    (s.keylen.toNat = keyLen x ∧
      expandCommand x s = .next (completeFlags (s.setSchedule x (schedule x (s.keyBytes x))).consumeKey 0)) := by
  by_cases h : s.keylen.toNat = keyLen x <;> simp [expandCommand, h]

theorem execAddRoundKey_cases (r : Nat) (s : State) :
    (s.schedValid = false ∧ execAddRoundKey r s = .next (completeFlags s (errorCode .noSchedule))) ∨
    (s.schedValid = true ∧ nrOfCode s.schedVar < r ∧
      execAddRoundKey r s = .next (completeFlags s (errorCode .operandRange))) ∨
    (s.schedValid = true ∧ r ≤ nrOfCode s.schedVar ∧
      execAddRoundKey r s = .next (completeFlags (s.setSt (addRoundKey s.st s.w r)) 0)) := by
  cases h : s.schedValid <;> rcases Nat.lt_or_ge (nrOfCode s.schedVar) r with hr | hr <;>
    simp [execAddRoundKey, h, hr, Nat.not_lt.mpr]

theorem execEncBlk_cases (s : State) :
    (s.schedValid = false ∧ execEncBlk s = .next (completeFlags s (errorCode .noSchedule))) ∨
    (s.schedValid = true ∧
      execEncBlk s = .next (completeFlags (s.setSt (fwdState s.st s.w (nrOfCode s.schedVar))) 0)) := by
  cases h : s.schedValid <;> simp [execEncBlk, h]

theorem execDecBlk_cases (s : State) :
    (s.schedValid = false ∧ execDecBlk s = .next (completeFlags s (errorCode .noSchedule))) ∨
    (s.schedValid = true ∧
      execDecBlk s = .next (completeFlags (s.setSt (invState s.st s.w (nrOfCode s.schedVar))) 0)) := by
  cases h : s.schedValid <;> simp [execDecBlk, h]

/-! ## Buffers -/

theorem padCount_range (len : Nat) : 1 ≤ padCount len ∧ padCount len ≤ 16 := by
  unfold padCount; omega

theorem add_padCount (len : Nat) : len + padCount len = 16 * (len / 16 + 1) := by
  unfold padCount; omega

/-- MAXLEN is a positive multiple of 16 and at most `2^20` (spec/00_scope.md R7). -/
theorem State.maxLen_range (s : State) : 16 ≤ s.maxLen ∧ s.maxLen ≤ 2 ^ 20 ∧ s.maxLen % 16 = 0 := by
  have := s.cfg.blocksLessOne.isLt
  unfold State.maxLen Config.maxLen
  omega

/-- A length below MAXLEN has room for its padding. -/
theorem State.pad_fits {s : State} {len : Nat} (h : len < s.maxLen) : len + padCount len ≤ s.maxLen := by
  have := s.maxLen_range
  rw [add_padCount]
  omega

theorem execPad_cases (s : State) :
    (s.maxLen ≤ s.len.toNat ∧ execPad s = .next (completeFlags s (errorCode .bufferOverflow))) ∨
    (s.len.toNat < s.maxLen ∧ execPad s = .next (completeFlags
      { s with
        inBuf := Memory.writeBytes s.inBuf s.len.toNat (padBytes s.len.toNat),
        len := BitVec.ofNat 32 (s.len.toNat + padCount s.len.toNat) } 0)) := by
  rcases Nat.lt_or_ge s.len.toNat s.maxLen with h | h
  · refine .inr ⟨h, ?_⟩
    rw [execPad, if_neg (by omega), if_neg (Nat.not_lt.mpr (State.pad_fits h))]
    rfl
  · refine .inl ⟨h, ?_⟩
    unfold execPad
    have := padCount_range s.len.toNat
    split_ifs
    · rfl
    · rfl
    · omega

theorem execUnpad_cases (s : State) :
    (unpad s.result = none ∧ execUnpad s = .next (completeFlags s.noResult (errorCode .invalidPadding))) ∨
    ∃ r, unpad s.result = some r ∧ execUnpad s = .next (completeFlags
      { s with
        outBuf := Memory.writeBytes s.outBuf r.length (List.replicate (s.outlen.toNat - r.length) 0),
        outlen := BitVec.ofNat 32 r.length } 0) := by
  cases h : unpad s.result with
  | none => exact .inl ⟨rfl, by simp [execUnpad, h]⟩
  | some r => exact .inr ⟨r, rfl, by simp [execUnpad, h]⟩

theorem inBlockError_cases (n : Nat) (s : State) :
    (s.maxLen < s.len.toNat ∧ inBlockError n s = some .bufferOverflow) ∨
    (s.len.toNat ≤ s.maxLen ∧ s.len.toNat < 16 * n + 16 ∧ inBlockError n s = some .operandRange) ∨
    (s.len.toNat ≤ s.maxLen ∧ 16 * n + 16 ≤ s.len.toNat ∧ inBlockError n s = none) := by
  unfold inBlockError blockOffset
  split_ifs <;> simp <;> omega

theorem execLdBlk_cases (n : Nat) (s : State) :
    (∃ e, inBlockError n s = some e ∧ execLdBlk n s = .next (completeFlags s (errorCode e))) ∨
    (inBlockError n s = none ∧
      execLdBlk n s = .next (completeFlags (s.setSt (toState (Memory.readBlock s.inBuf (16 * n)))) 0)) := by
  cases h : inBlockError n s with
  | some e => exact .inl ⟨e, rfl, by simp [execLdBlk, h]⟩
  | none => exact .inr ⟨rfl, by simp [execLdBlk, h, blockOffset]⟩

theorem execChBlk_cases (n : Nat) (s : State) :
    (∃ e, inBlockError n s = some e ∧ execChBlk n s = .next (completeFlags s (errorCode e))) ∨
    (inBlockError n s = none ∧
      execChBlk n s = .next (completeFlags (s.setChain (Memory.readBlock s.inBuf (16 * n))) 0)) := by
  cases h : inBlockError n s with
  | some e => exact .inl ⟨e, rfl, by simp [execChBlk, h]⟩
  | none => exact .inr ⟨rfl, by simp [execChBlk, h, blockOffset]⟩

theorem execStBlk_cases (n : Nat) (s : State) :
    (s.maxLen < 16 * n + 16 ∧ execStBlk n s = .next (completeFlags s (errorCode .operandRange))) ∨
    (16 * n + 16 ≤ s.maxLen ∧ execStBlk n s = .next (completeFlags
      { s with
        outBuf := Memory.writeBlock s.outBuf (16 * n) (toLinear s.st),
        outlen := if s.outlen.toNat < 16 * n + 16 then BitVec.ofNat 32 (16 * n + 16) else s.outlen } 0)) := by
  rcases Nat.lt_or_ge s.maxLen (16 * n + 16) with h | h
  · exact .inl ⟨h, by simp [execStBlk, blockOffset, h]⟩
  · exact .inr ⟨h, by rw [execStBlk, blockOffset, if_neg (Nat.not_lt.mpr h)]; rfl⟩

/-! ## Chaining -/

theorem execChIv_cases (s : State) :
    (s.ivp = false ∧ execChIv s = .next (completeFlags s (errorCode .missingIv))) ∨
    (s.ivp = true ∧ execChIv s = .next (completeFlags (s.setChain s.iv) 0)) := by
  cases h : s.ivp <;> simp [execChIv, h]

/-! ## Whole messages -/

theorem encryptCommand_cases (x : Variant) (y : Mode) (s : State) :
    (∃ e, encryptCommand x y s = .next (completeFlags s.noResult.wipeSecrets (errorCode e)) ∧
      ((s.keylen.toNat ≠ keyLen x ∧ e = .invalidKeyLength) ∨
        (s.keylen.toNat = keyLen x ∧ y = .cbc ∧ s.ivp = false ∧ e = .missingIv) ∨
        (s.keylen.toNat = keyLen x ∧ (y = .cbc → s.ivp = true) ∧ s.maxLen ≤ s.len.toNat ∧ e = .bufferOverflow))) ∨
    (s.keylen.toNat = keyLen x ∧ (y = .cbc → s.ivp = true) ∧ s.len.toNat < s.maxLen ∧
      encryptCommand x y s =
        .next (completeFlags (s.setResult (enc s.message x y (s.keyBytes x) s.iv)).wipeSecrets 0)) := by
  unfold encryptCommand
  split_ifs with h1 h2 h3
  · exact .inl ⟨_, rfl, .inl ⟨h1, rfl⟩⟩
  · exact .inl ⟨_, rfl, .inr (.inl ⟨by simpa using h1, h2.1, h2.2, rfl⟩)⟩
  · exact .inl ⟨_, rfl, .inr (.inr ⟨by simpa using h1, by simpa using h2, h3, rfl⟩)⟩
  · exact .inr ⟨by simpa using h1, by simpa using h2, by simpa using h3, rfl⟩

theorem decryptCommand_cases (x : Variant) (y : Mode) (s : State) :
    (∃ e, decryptCommand x y s = .next (completeFlags s.noResult.wipeSecrets (errorCode e)) ∧
      ((s.keylen.toNat ≠ keyLen x ∧ e = .invalidKeyLength) ∨
        (s.keylen.toNat = keyLen x ∧ s.len.toNat % 16 ≠ 0 ∧ e = .invalidInputLength) ∨
        (s.keylen.toNat = keyLen x ∧ s.len.toNat % 16 = 0 ∧ y = .cbc ∧ s.ivp = false ∧ e = .missingIv) ∨
        (s.keylen.toNat = keyLen x ∧ s.len.toNat % 16 = 0 ∧ (y = .cbc → s.ivp = true) ∧ s.maxLen < s.len.toNat ∧
          e = .bufferOverflow) ∨
        (s.keylen.toNat = keyLen x ∧ s.len.toNat % 16 = 0 ∧ (y = .cbc → s.ivp = true) ∧ s.len.toNat ≤ s.maxLen ∧
          dec s.message x y (s.keyBytes x) s.iv = none ∧ e = .invalidPadding))) ∨
    ∃ r, s.keylen.toNat = keyLen x ∧ s.len.toNat % 16 = 0 ∧ (y = .cbc → s.ivp = true) ∧ s.len.toNat ≤ s.maxLen ∧
      dec s.message x y (s.keyBytes x) s.iv = some r ∧
      decryptCommand x y s = .next (completeFlags (s.setResult r).wipeSecrets 0) := by
  unfold decryptCommand
  split_ifs with h1 h2 h3 h4
  · exact .inl ⟨_, rfl, .inl ⟨h1, rfl⟩⟩
  · exact .inl ⟨_, rfl, .inr (.inl ⟨by simpa using h1, h2, rfl⟩)⟩
  · exact .inl ⟨_, rfl, .inr (.inr (.inl ⟨by simpa using h1, by simpa using h2, h3.1, h3.2, rfl⟩))⟩
  · exact .inl ⟨_, rfl, .inr (.inr (.inr (.inl ⟨by simpa using h1, by simpa using h2, by simpa using h3, h4, rfl⟩)))⟩
  · cases hd : dec s.message x y (s.keyBytes x) s.iv with
    | none =>
      exact .inl ⟨_, rfl, .inr (.inr (.inr (.inr
        ⟨by simpa using h1, by simpa using h2, by simpa using h3, by simpa using h4, rfl, rfl⟩)))⟩
    | some r =>
      exact .inr ⟨r, by simpa using h1, by simpa using h2, by simpa using h3, by simpa using h4, rfl, rfl⟩

/-! ## The arms of the message commands and of EXPAND -/

theorem exec_expandInstr (x : Variant) (s : State) : exec (expandInstr x) s = expandCommand x s := by cases x <;> rfl

theorem exec_encryptInstr (x : Variant) (y : Mode) (s : State) :
    exec (encryptInstr x y) s = encryptCommand x y s := by cases x <;> cases y <;> rfl

theorem exec_decryptInstr (x : Variant) (y : Mode) (s : State) :
    exec (decryptInstr x y) s = decryptCommand x y s := by cases x <;> cases y <;> rfl

end Sys2Proof.Machine
end

