-- ==== Sys2Proof/Laws/Memory.lean ====
section
/-! SUPPORT. The buffers: a read after a write, the canonical form, and that canonical buffers with equal bytes are
equal. -/

namespace Sys2Proof.Machine

/-! ## The canonical form -/

theorem Memory.wfFrom_weaken {m : Memory} {lo lo' : Nat} (h : lo' ≤ lo) (hm : Memory.wfFrom lo m = true) :
    Memory.wfFrom lo' m = true := by
  cases m with
  | nil => rfl
  | cons c m =>
    obtain ⟨a, b⟩ := c
    simp only [Memory.wfFrom, Bool.and_eq_true, decide_eq_true_eq] at hm ⊢
    exact ⟨⟨by omega, hm.1.2⟩, hm.2⟩

/-- Below the first listed offset a canonical buffer reads 0. -/
theorem Memory.read_of_wfFrom {m : Memory} {lo a : Nat} (hm : Memory.wfFrom lo m = true) (h : a < lo) :
    Memory.read m a = 0 := by
  induction m generalizing lo with
  | nil => rfl
  | cons c m ih =>
    obtain ⟨x, y⟩ := c
    simp only [Memory.wfFrom, Bool.and_eq_true, decide_eq_true_eq] at hm
    rw [Memory.read, if_neg (by omega)]
    exact ih hm.2 (by omega)

/-- A write keeps the canonical form. -/
theorem Memory.wfFrom_write {m : Memory} {lo a : Nat} (b : Byte) (hm : Memory.wfFrom lo m = true) (h : lo ≤ a) :
    Memory.wfFrom lo (Memory.write m a b) = true := by
  induction m generalizing lo with
  | nil =>
    simp only [Memory.write]
    split_ifs with hb
    · rfl
    · simpa [Memory.wfFrom, h] using hb
  | cons c m ih =>
    obtain ⟨x, y⟩ := c
    simp only [Memory.wfFrom, Bool.and_eq_true, decide_eq_true_eq] at hm
    obtain ⟨⟨hx, hy⟩, hm⟩ := hm
    simp only [Memory.write]
    split_ifs with h1 hb h2 hb
    · simp [Memory.wfFrom, hx, hm]; simpa using hy
    · have hm' := Memory.wfFrom_weaken (Nat.le_refl _) hm
      simp only [Memory.wfFrom, Bool.and_eq_true, decide_eq_true_eq]
      exact ⟨⟨h, by simpa using hb⟩, ⟨by omega, hy⟩, hm'⟩
    · exact Memory.wfFrom_weaken (by omega) hm
    · subst h2
      simp only [Memory.wfFrom, Bool.and_eq_true, decide_eq_true_eq]
      exact ⟨⟨h, by simpa using hb⟩, hm⟩
    · simp only [Memory.wfFrom, Bool.and_eq_true, decide_eq_true_eq]
      exact ⟨⟨hx, hy⟩, ih hm (by omega)⟩

theorem Memory.wf_write {m : Memory} (a : Nat) (b : Byte) (hm : Memory.wf m = true) :
    Memory.wf (Memory.write m a b) = true := Memory.wfFrom_write b hm (Nat.zero_le a)

theorem Memory.wf_writeBytes {m : Memory} (a : Nat) (bs : List Byte) (hm : Memory.wf m = true) :
    Memory.wf (Memory.writeBytes m a bs) = true := by
  induction bs generalizing m a with
  | nil => exact hm
  | cons b bs ih => exact ih (a + 1) (Memory.wf_write a b hm)

theorem Memory.wf_writeBlock {m : Memory} (a : Nat) (b : Block) (hm : Memory.wf m = true) :
    Memory.wf (Memory.writeBlock m a b) = true := Memory.wf_writeBytes a _ hm

theorem Memory.wf_writeWord {m : Memory} (a : Nat) (v : Word) (hm : Memory.wf m = true) :
    Memory.wf (Memory.writeWord m a v) = true := Memory.wf_writeBytes a _ hm

@[simp] theorem Memory.wf_nil : Memory.wf [] = true := rfl

theorem Memory.wf_ofBytes (bs : List Byte) : Memory.wf (Memory.ofBytes bs) = true :=
  Memory.wf_writeBytes 0 bs Memory.wf_nil

theorem Memory.wfFrom_keepBelow {m : Memory} {lo : Nat} (n : Nat) (hm : Memory.wfFrom lo m = true) :
    Memory.wfFrom lo (Memory.keepBelow m n) = true := by
  induction m generalizing lo with
  | nil => rfl
  | cons c m ih =>
    obtain ⟨x, y⟩ := c
    simp only [Memory.wfFrom, Bool.and_eq_true, decide_eq_true_eq] at hm
    simp only [Memory.keepBelow, List.filter_cons]
    split_ifs
    · simp only [Memory.wfFrom, Bool.and_eq_true, decide_eq_true_eq]
      exact ⟨hm.1, ih hm.2⟩
    · exact Memory.wfFrom_weaken (by omega) (ih hm.2)

theorem Memory.wf_keepBelow {m : Memory} (n : Nat) (hm : Memory.wf m = true) :
    Memory.wf (Memory.keepBelow m n) = true := Memory.wfFrom_keepBelow n hm

/-- The buffers after reset are canonical. -/
theorem Memory.wf_reset : Memory.wf State.reset.inBuf = true ∧ Memory.wf State.reset.outBuf = true := ⟨rfl, rfl⟩

/-! ## Reads after writes -/

@[simp] theorem Memory.read_nil (a : Nat) : Memory.read [] a = 0 := rfl

/-- A write leaves every other offset alone, canonical or not. -/
theorem Memory.read_write_of_ne {a x : Nat} (m : Memory) (b : Byte) (h : x ≠ a) :
    Memory.read (Memory.write m a b) x = Memory.read m x := by
  induction m with
  | nil =>
    simp only [Memory.write]
    split_ifs <;> simp [Memory.read, Ne.symm h]
  | cons c m ih =>
    obtain ⟨y, z⟩ := c
    simp only [Memory.write]
    split_ifs with h1 hb h2 hb
    · rfl
    · simp [Memory.read, Ne.symm h]
    · subst h2; simp [Memory.read, Ne.symm h]
    · subst h2; simp [Memory.read, Ne.symm h]
    · simp only [Memory.read, ih]

theorem Memory.read_write_self_from {m : Memory} {lo a : Nat} (b : Byte) (hm : Memory.wfFrom lo m = true) :
    Memory.read (Memory.write m a b) a = b := by
  induction m generalizing lo with
  | nil =>
    simp only [Memory.write]
    split_ifs with hb
    · exact hb.symm
    · simp [Memory.read]
  | cons c m ih =>
    obtain ⟨x, y⟩ := c
    simp only [Memory.wfFrom, Bool.and_eq_true, decide_eq_true_eq] at hm
    simp only [Memory.write]
    split_ifs with h1 hb h2 hb
    · rw [Memory.read, if_neg (by omega), hb]
      exact Memory.read_of_wfFrom hm.2 (by omega)
    · simp [Memory.read]
    · subst h2; rw [hb]; exact Memory.read_of_wfFrom hm.2 (by omega)
    · simp [Memory.read]
    · rw [Memory.read, if_neg (Ne.symm h2)]; exact ih hm.2

/-- A read after a write to the same offset of a canonical buffer gives the byte written. -/
theorem Memory.read_write_self {m : Memory} (a : Nat) (b : Byte) (hm : Memory.wf m = true) :
    Memory.read (Memory.write m a b) a = b := Memory.read_write_self_from b hm

theorem Memory.read_write {m : Memory} (a x : Nat) (b : Byte) (hm : Memory.wf m = true) :
    Memory.read (Memory.write m a b) x = if x = a then b else Memory.read m x := by
  split_ifs with h
  · subst h; exact Memory.read_write_self x b hm
  · exact Memory.read_write_of_ne m b h

/-- Consecutive bytes written: inside the range the byte written, outside unchanged. -/
theorem Memory.read_writeBytes {m : Memory} (a x : Nat) (bs : List Byte) (hm : Memory.wf m = true) :
    Memory.read (Memory.writeBytes m a bs) x =
      if a ≤ x ∧ x < a + bs.length then bs.getD (x - a) 0 else Memory.read m x := by
  induction bs generalizing m a with
  | nil => simp [Memory.writeBytes]
  | cons b bs ih =>
    rw [Memory.writeBytes, ih (a + 1) (Memory.wf_write a b hm), Memory.read_write a x b hm, List.length_cons]
    by_cases hx : x = a
    · subst hx
      rw [if_neg (by omega), if_pos rfl, if_pos (by omega)]; simp
    · rw [if_neg hx]
      by_cases h : a ≤ x ∧ x < a + (bs.length + 1)
      · rw [if_pos (by omega), if_pos h]
        obtain ⟨k, rfl⟩ : ∃ k, x = a + 1 + k := ⟨x - (a + 1), by omega⟩
        rw [show a + 1 + k - (a + 1) = k by omega, show a + 1 + k - a = k + 1 by omega]
        simp
      · rw [if_neg (by omega), if_neg h]

theorem Memory.read_writeBytes_of_outside {m : Memory} {a x : Nat} {bs : List Byte}
    (h : x < a ∨ a + bs.length ≤ x) : Memory.read (Memory.writeBytes m a bs) x = Memory.read m x := by
  induction bs generalizing m a with
  | nil => rfl
  | cons b bs ih =>
    rw [List.length_cons] at h
    rw [Memory.writeBytes, ih (by omega), Memory.read_write_of_ne m b (by omega)]

theorem Memory.read_ofBytes (bs : List Byte) (x : Nat) : Memory.read (Memory.ofBytes bs) x = bs.getD x 0 := by
  rw [Memory.ofBytes, Memory.read_writeBytes 0 x bs Memory.wf_nil]
  split_ifs with h
  · rfl
  · simp only [Nat.zero_le, Nat.zero_add, true_and, not_lt] at h
    simp [List.getD, List.getElem?_eq_none h]

theorem Memory.read_writeBlock {m : Memory} (a x : Nat) (b : Block) (hm : Memory.wf m = true) :
    Memory.read (Memory.writeBlock m a b) x =
      if a ≤ x ∧ x < a + 16 then b.getD (x - a) 0 else Memory.read m x := by
  rw [Memory.writeBlock, Memory.read_writeBytes a x _ hm]
  simp [Vector.getD, List.getD, Vector.getElem?_toList]

theorem Memory.readBlock_writeBlock {m : Memory} (a : Nat) (b : Block) (hm : Memory.wf m = true) :
    Memory.readBlock (Memory.writeBlock m a b) a = b := by
  ext k hk
  simp [Memory.readBlock, Memory.read_writeBlock a _ b hm, Vector.getD]

theorem Memory.read_keepBelow (m : Memory) (n x : Nat) :
    Memory.read (Memory.keepBelow m n) x = if x < n then Memory.read m x else 0 := by
  induction m with
  | nil => simp [Memory.keepBelow]
  | cons c m ih =>
    obtain ⟨y, z⟩ := c
    simp only [Memory.keepBelow, List.filter_cons] at ih ⊢
    by_cases hy : y < n <;> by_cases hx : y = x
    · subst hx; simp [hy, Memory.read]
    · simp only [hy, decide_true, if_true, Memory.read, if_neg hx, ih]
    · subst hx; simp [hy, ih]
    · simp [hy, Memory.read, if_neg hx, ih]

/-! ## Lengths and bounds -/

@[simp] theorem Memory.readBytes_length (m : Memory) (a n : Nat) : (Memory.readBytes m a n).length = n := by
  simp [Memory.readBytes]

theorem Memory.readBytes_getD {m : Memory} {a n j : Nat} (h : j < n) :
    (Memory.readBytes m a n).getD j 0 = Memory.read m (a + j) := by
  simp [Memory.readBytes, List.getD, h]

theorem Memory.below_cons (n : Nat) (c : Host.Cell) (m : Memory) :
    Memory.below n (c :: m) = (decide (c.1 < n) && Memory.below n m) := rfl

/-- A write of any byte below n, or of 0 anywhere, keeps the bound n. -/
theorem Memory.below_write {m : Memory} {n a : Nat} {b : Byte} (hm : Memory.below n m = true) (h : a < n ∨ b = 0) :
    Memory.below n (Memory.write m a b) = true := by
  induction m with
  | nil =>
    simp only [Memory.write]
    split_ifs with hb
    · rfl
    · simpa [Memory.below] using h.resolve_right hb
  | cons c m ih =>
    obtain ⟨x, y⟩ := c
    rw [Memory.below_cons, Bool.and_eq_true, decide_eq_true_eq] at hm
    simp only [Memory.write]
    split_ifs with h1 hb h2 hb
    · rwa [Memory.below_cons, Bool.and_eq_true, decide_eq_true_eq]
    · simpa [Memory.below_cons, hm] using h.resolve_right hb
    · exact hm.2
    · simpa [Memory.below_cons, hm.2] using h.resolve_right hb
    · rw [Memory.below_cons, Bool.and_eq_true, decide_eq_true_eq]
      exact ⟨hm.1, ih hm.2⟩

theorem Memory.below_writeBytes {m : Memory} {n a : Nat} (bs : List Byte) (hm : Memory.below n m = true)
    (h : a + bs.length ≤ n) : Memory.below n (Memory.writeBytes m a bs) = true := by
  induction bs generalizing m a with
  | nil => exact hm
  | cons b bs ih =>
    rw [List.length_cons] at h
    exact ih (Memory.below_write hm (.inl (by omega))) (by omega)

theorem Memory.below_ofBytes {n : Nat} (bs : List Byte) (h : bs.length ≤ n) :
    Memory.below n (Memory.ofBytes bs) = true := Memory.below_writeBytes bs rfl (by omega)

/-! ## Equality -/

theorem Memory.ext_from {m m' : Memory} {lo : Nat} (hm : Memory.wfFrom lo m = true) (hm' : Memory.wfFrom lo m' = true)
    (h : ∀ a, Memory.read m a = Memory.read m' a) : m = m' := by
  induction m generalizing m' lo with
  | nil =>
    cases m' with
    | nil => rfl
    | cons c m' =>
      obtain ⟨x, y⟩ := c
      simp only [Memory.wfFrom, Bool.and_eq_true] at hm'
      have := h x
      simp only [Memory.read, if_true] at this
      simp [← this] at hm'
  | cons c m ih =>
    obtain ⟨x, y⟩ := c
    simp only [Memory.wfFrom, Bool.and_eq_true, decide_eq_true_eq] at hm
    cases m' with
    | nil =>
      have := h x
      simp only [Memory.read, if_true] at this
      simp [this] at hm
    | cons c' m' =>
      obtain ⟨x', y'⟩ := c'
      simp only [Memory.wfFrom, Bool.and_eq_true, decide_eq_true_eq] at hm'
      have hx : x = x' := by
        by_contra hne
        rcases Nat.lt_or_gt_of_ne hne with hlt | hlt
        · have := h x
          rw [Memory.read, if_pos rfl, Memory.read, if_neg (by omega),
            Memory.read_of_wfFrom hm'.2 (by omega)] at this
          simp [this] at hm
        · have := h x'
          rw [Memory.read, if_neg (by omega), Memory.read_of_wfFrom hm.2 (by omega), Memory.read, if_pos rfl] at this
          simp [← this] at hm'
      subst hx
      have hy : y = y' := by simpa [Memory.read] using h x
      subst hy
      refine congrArg _ (ih hm.2 hm'.2 fun a => ?_)
      by_cases ha : x = a
      · rw [Memory.read_of_wfFrom hm.2 (by omega), Memory.read_of_wfFrom hm'.2 (by omega)]
      · simpa [Memory.read, ha] using h a

/-- Canonical buffers whose bytes agree are equal. -/
theorem Memory.ext_of_read {m m' : Memory} (hm : Memory.wf m = true) (hm' : Memory.wf m' = true)
    (h : ∀ a, Memory.read m a = Memory.read m' a) : m = m' := Memory.ext_from hm hm' h

end Sys2Proof.Machine
end

