-- ==== Sys2Proof/Laws/PerInstr.lean ====
section
/-! SUPPORT. Per command: its word lies in its own row of the opcode map (spec/30_encoding.md R107), whatever its
operands. -/

namespace Sys2Proof.Laws.RowMatch

/-- The word of the command has the row's match value under the row's mask. -/
def Statement (i : Instr) : Prop := selectsRow (encode i) i = true

/-- A format A word under the format A mask is its opcode alone. -/
theorem wordA_masked (arg : BitVec 16) (opc : BitVec 8) : wordA arg opc &&& argMask = opc.setWidth 32 := by
  refine BitVec.eq_of_getLsbD_eq fun i hi => ?_
  have e : wordA arg opc = (arg ++ 0#4 ++ 0#2 ++ 0#2 ++ opc : BitVec (16 + 4 + 2 + 2 + 8)) := rfl
  have m : argMask.getLsbD i = decide (i < 16) := by
    have : argMask = (BitVec.allOnes 16).setWidth 32 := by decide
    rw [this, BitVec.getLsbD_setWidth, BitVec.getLsbD_allOnes]
    simp [hi]
  rw [BitVec.getLsbD_and, m, e, BitVec.getLsbD_setWidth]
  simp only [BitVec.getLsbD_append, BitVec.getLsbD_zero]
  have high : ¬i < 8 → opc.getLsbD i = false := fun h => BitVec.getLsbD_of_ge opc i (by omega)
  split_ifs <;> simp_all <;> omega

theorem nop : Statement .nop := by unfold Statement; decide

theorem clear : Statement .clear := by unfold Statement; decide

theorem gfmul (a b : Byte) : Statement (.gfmul a b) := by
  simp only [Statement, selectsRow, encode, rowOf, wordA_masked]
  decide

theorem expand128 : Statement .expand128 := by unfold Statement; decide

theorem expand192 : Statement .expand192 := by unfold Statement; decide

theorem expand256 : Statement .expand256 := by unfold Statement; decide

theorem subBytes : Statement .subBytes := by unfold Statement; decide

theorem invSubBytes : Statement .invSubBytes := by unfold Statement; decide

theorem shiftRows : Statement .shiftRows := by unfold Statement; decide

theorem invShiftRows : Statement .invShiftRows := by unfold Statement; decide

theorem mixColumns : Statement .mixColumns := by unfold Statement; decide

theorem invMixColumns : Statement .invMixColumns := by unfold Statement; decide

theorem addRoundKey (r : Nat) : Statement (.addRoundKey r) := by
  simp only [Statement, selectsRow, encode, rowOf, wordA_masked]
  decide

theorem encBlk : Statement .encBlk := by unfold Statement; decide

theorem decBlk : Statement .decBlk := by unfold Statement; decide

theorem pad : Statement .pad := by unfold Statement; decide

theorem unpad : Statement .unpad := by unfold Statement; decide

theorem ldBlk (n : Nat) : Statement (.ldBlk n) := by
  simp only [Statement, selectsRow, encode, rowOf, wordA_masked]
  decide

theorem stBlk (n : Nat) : Statement (.stBlk n) := by
  simp only [Statement, selectsRow, encode, rowOf, wordA_masked]
  decide

theorem chIv : Statement .chIv := by unfold Statement; decide

theorem chS : Statement .chS := by unfold Statement; decide

theorem chBlk (n : Nat) : Statement (.chBlk n) := by
  simp only [Statement, selectsRow, encode, rowOf, wordA_masked]
  decide

theorem xch : Statement .xch := by unfold Statement; decide

theorem encrypt128Ecb : Statement .encrypt128Ecb := by unfold Statement; decide

theorem encrypt192Ecb : Statement .encrypt192Ecb := by unfold Statement; decide

theorem encrypt256Ecb : Statement .encrypt256Ecb := by unfold Statement; decide

theorem encrypt128Cbc : Statement .encrypt128Cbc := by unfold Statement; decide

theorem encrypt192Cbc : Statement .encrypt192Cbc := by unfold Statement; decide

theorem encrypt256Cbc : Statement .encrypt256Cbc := by unfold Statement; decide

theorem decrypt128Ecb : Statement .decrypt128Ecb := by unfold Statement; decide

theorem decrypt192Ecb : Statement .decrypt192Ecb := by unfold Statement; decide

theorem decrypt256Ecb : Statement .decrypt256Ecb := by unfold Statement; decide

theorem decrypt128Cbc : Statement .decrypt128Cbc := by unfold Statement; decide

theorem decrypt192Cbc : Statement .decrypt192Cbc := by unfold Statement; decide

theorem decrypt256Cbc : Statement .decrypt256Cbc := by unfold Statement; decide

end Sys2Proof.Laws.RowMatch
end

