-- ==== Sys2Proof/Laws/Step.lean ====
section
/-! SUPPORT. What one step can do, what serving each host operation does, and what a bus write can change. -/

namespace Sys2Proof.Machine

/-- Everything a step that answers a next state can have done. -/
theorem step_cases {s t : State} (h : step s = .next t) :
    (s.seq = .running 0 ∧ finish s = .next t) ∨
    (∃ n, s.seq = .running (n + 1) ∧ t = serve { s with seq := .running n }) ∨
    (s.seq = .idle ∧ t = serve s) := by
  unfold step at h
  split at h
  · exact .inl ⟨‹_›, h⟩
  · exact .inr (.inl ⟨_, ‹_›, by cases h; rfl⟩)
  · exact .inr (.inr ⟨‹_›, by cases h; rfl⟩)

/-- Everything the completion of a running command can have done. -/
theorem finish_cases {s t : State} (h : finish s = .next t) :
    (∃ e, decode s.lastcmd = .error e ∧ t = completeFlags s (errorCode .illegalCommand)) ∨
    ∃ i, decode s.lastcmd = .ok i ∧ exec i s = .next t := by
  unfold finish at h
  split at h
  · exact .inl ⟨_, ‹_›, by cases h; rfl⟩
  · exact .inr ⟨_, ‹_›, h⟩

/-! ## Serving one host operation -/

/-- An answer lets a call read its result exactly when it is a word whose ERRCODE field is 0. -/
theorem answerNoError_iff (a : Answer) : answerNoError a = true ↔ ∃ v, a = .data v ∧ v.extractLsb' 8 8 = 0 := by
  cases a <;> simp [answerNoError]

section
variable {s : State} {rest : List HostOp}

theorem serve_nothing (h : s.pending = []) : serve s = s := by simp [serve, h]

theorem serve_read {addr : Addr} {width : Nat} (h : s.pending = .read addr width :: rest) :
    serve s = answer s rest (busRead s addr width) := by simp [serve, h]

theorem serve_write {addr : Addr} {width : Nat} {v : Word} (h : s.pending = .write addr width v :: rest) :
    serve s = answer (busWrite s addr width v) rest (writeAnswer s addr width) := by simp [serve, h]

theorem serve_readOut (h : s.pending = .readOut :: rest) :
    serve s = answer s (readOutWords (busRead s outlenAddr 4) ++ rest) (busRead s outlenAddr 4) := by
  simp [serve, readOut, h]

theorem serve_readResult (h : s.pending = .readResult :: rest) :
    serve s = if s.answers.head?.any answerNoError then readOut s rest else { s with pending := rest } := by
  simp [serve, readResult, h]

theorem serve_reset (h : s.pending = .reset :: rest) :
    serve s = { resetEngine s with pending := rest } := by simp [serve, h]

/-- WAIT reads STATUS; it stays pending exactly while BUSY is 1. -/
theorem serve_wait (h : s.pending = .wait :: rest) :
    serve s = answer s (if s.busy then .wait :: rest else rest) (.data (statusWord s)) := by
  have hr : busRead s statusAddr 4 = .data (statusWord s) := by
    simp [busRead, accessTarget, targetAt, statusAddr, targetValue]
  have hb : answerBusy (.data (statusWord s)) = s.busy := by
    change (_ ++ BitVec.ofBool s.busy : BitVec (31 + 1)).getLsbD 0 = _
    rw [BitVec.getLsbD_append]
    cases s.busy <;> rfl
  simp only [serve, h, hr, hb]

end

/-! ## Bus writes -/

/-- Everything a bus write can do: nothing, or on an idle engine the effect on a mapped target. -/
theorem busWrite_cases (s : State) (addr : Addr) (width : Nat) (v : Word) :
    busWrite s addr width v = s ∨
    ∃ t, accessTarget s addr width = some t ∧ s.busy = false ∧ busWrite s addr width v = writeTarget s v t := by
  unfold busWrite
  cases accessTarget s addr width with
  | none => exact .inl rfl
  | some t => cases h : s.busy <;> simp

/-- Everything a launch can do. -/
theorem launch_cases (s : State) (v : Word) :
    (∃ e, decode v = .error e ∧ launch s v = completeFlags (launchFlags s v) (errorCode .illegalCommand)) ∨
    ∃ i, decode v = .ok i ∧
      launch s v = { launchFlags s v with seq := .running (s.delays.headD 0), delays := s.delays.tail } := by
  unfold launch
  cases h : decode v with
  | error e => exact .inl ⟨e, rfl, rfl⟩
  | ok i => exact .inr ⟨i, rfl, rfl⟩

theorem of_ite_some {c : Prop} [Decidable c] {x y : Target} {r : Option Target}
    (h : (if c then some x else r) = some y) (hxy : x ≠ y) : r = some y := by
  by_cases hc : c
  · exact absurd (Option.some.inj ((if_pos hc).symm.trans h)) hxy
  · exact (if_neg hc).symm.trans h

/-- A word of IN the bus maps lies inside the buffer. -/
theorem targetAt_inWord {maxLen a offset : Nat} (h : targetAt maxLen a = some (.inWord offset)) :
    a = inBase + offset ∧ offset < maxLen := by
  unfold targetAt at h
  iterate 12 replace h := of_ite_some h nofun
  by_cases hin : inBase ≤ a ∧ a < inBase + maxLen
  · rw [if_pos hin] at h
    have e : a - inBase = offset := Target.inWord.inj (Option.some.inj h)
    omega
  · rw [if_neg hin] at h
    exact absurd (of_ite_some h nofun) nofun

end Sys2Proof.Machine
end

