-- ==== Sys2Proof/Tests/Slice0.lean ====
section
/-! SUPPORT. The model's own tests. Words are written out bit by bit from spec/30_encoding.md R102 to R107, bit 31 on the
left (ARG, ZERO, MODE, VAR, OPC); expected results are those of spec/95_test_vectors.md, named by its V and T numbers.
The last section has, for every obligation with hypotheses, states and operands that meet them together. -/

namespace Sys2Proof.Tests

set_option Elab.async false

open Sys2Proof.Machine

/-! ## WellFormed refuses an argument that does not fit ARG -/

theorem test_wellFormed_refuses_round_65536 : (Instr.addRoundKey 65536).wf = false := by decide

theorem test_wellFormed_refuses_block_65536 :
    (Instr.ldBlk 65536).wf = false ∧ (Instr.stBlk 65536).wf = false ∧ (Instr.chBlk 65536).wf = false := by decide

/-! ## Decoding words written out from the encoding -/

theorem test_decode_control_words :
    decode 0b0000000000000000_0000_00_00_00000000 = .ok .nop ∧
    decode 0b0000000000000000_0000_00_00_00000001 = .ok .clear := by
  decide +kernel

theorem test_decode_gfmul_words :
    decode 0b0101011110000011_0000_00_00_00010000 = .ok (.gfmul 0x57 0x83) ∧
    decode 0b1111111111111111_0000_00_00_00010000 = .ok (.gfmul 0xff 0xff) := by
  decide +kernel

theorem test_decode_expand_words :
    decode 0b0000000000000000_0000_00_01_00100000 = .ok .expand128 ∧
    decode 0b0000000000000000_0000_00_10_00100000 = .ok .expand192 ∧
    decode 0b0000000000000000_0000_00_11_00100000 = .ok .expand256 := by
  decide +kernel

theorem test_decode_round_words :
    decode 0b0000000000000000_0000_00_00_00110000 = .ok .subBytes ∧
    decode 0b0000000000000000_0000_00_00_00110001 = .ok .invSubBytes ∧
    decode 0b0000000000000000_0000_00_00_00110010 = .ok .shiftRows ∧
    decode 0b0000000000000000_0000_00_00_00110011 = .ok .invShiftRows ∧
    decode 0b0000000000000000_0000_00_00_00110100 = .ok .mixColumns ∧
    decode 0b0000000000000000_0000_00_00_00110101 = .ok .invMixColumns ∧
    decode 0b0000000000001110_0000_00_00_00110110 = .ok (.addRoundKey 14) ∧
    decode 0b1111111111111111_0000_00_00_00110110 = .ok (.addRoundKey 65535) ∧
    decode 0b0000000000000000_0000_00_00_00111000 = .ok .encBlk ∧
    decode 0b0000000000000000_0000_00_00_00111001 = .ok .decBlk := by
  decide +kernel

theorem test_decode_buffer_words :
    decode 0b0000000000000000_0000_00_00_01000000 = .ok .pad ∧
    decode 0b0000000000000000_0000_00_00_01000001 = .ok .unpad ∧
    decode 0b0000000000000011_0000_00_00_01000010 = .ok (.ldBlk 3) ∧
    decode 0b0000000011111111_0000_00_00_01000011 = .ok (.stBlk 255) := by
  decide +kernel

theorem test_decode_chaining_words :
    decode 0b0000000000000000_0000_00_00_01010000 = .ok .chIv ∧
    decode 0b0000000000000000_0000_00_00_01010001 = .ok .chS ∧
    decode 0b0000000000000010_0000_00_00_01010010 = .ok (.chBlk 2) ∧
    decode 0b0000000000000000_0000_00_00_01010011 = .ok .xch := by
  decide +kernel

theorem test_decode_encrypt_words :
    decode 0b0000000000000000_0000_01_01_01011000 = .ok .encrypt128Ecb ∧
    decode 0b0000000000000000_0000_01_10_01011000 = .ok .encrypt192Ecb ∧
    decode 0b0000000000000000_0000_01_11_01011000 = .ok .encrypt256Ecb ∧
    decode 0b0000000000000000_0000_10_01_01011000 = .ok .encrypt128Cbc ∧
    decode 0b0000000000000000_0000_10_10_01011000 = .ok .encrypt192Cbc ∧
    decode 0b0000000000000000_0000_10_11_01011000 = .ok .encrypt256Cbc := by
  decide +kernel

theorem test_decode_decrypt_words :
    decode 0b0000000000000000_0000_01_01_01011001 = .ok .decrypt128Ecb ∧
    decode 0b0000000000000000_0000_01_10_01011001 = .ok .decrypt192Ecb ∧
    decode 0b0000000000000000_0000_01_11_01011001 = .ok .decrypt256Ecb ∧
    decode 0b0000000000000000_0000_10_01_01011001 = .ok .decrypt128Cbc ∧
    decode 0b0000000000000000_0000_10_10_01011001 = .ok .decrypt192Cbc ∧
    decode 0b0000000000000000_0000_10_11_01011001 = .ok .decrypt256Cbc := by
  decide +kernel

/-- V22, R109. -/
theorem test_decode_reserved_opcodes :
    decode 0x00000037 = .error .reservedOpcode ∧
    decode 0x0000003A = .error .reservedOpcode ∧
    decode 0x00000054 = .error .reservedOpcode ∧
    decode 0x000000FF = .error .reservedOpcode ∧
    decode 0x00000002 = .error .reservedOpcode := by
  decide +kernel

/-- V22, R108. -/
theorem test_decode_unused_fields :
    decode 0x00000420 = .error .unusedFieldSet ∧
    decode 0x00010120 = .error .unusedFieldSet ∧
    decode 0x00000136 = .error .unusedFieldSet ∧
    decode 0x00001558 = .error .unusedFieldSet ∧
    decode 0x00010053 = .error .unusedFieldSet ∧
    decode 0x00010030 = .error .unusedFieldSet ∧
    decode 0x00001000 = .error .unusedFieldSet ∧
    decode 0x00000138 = .error .unusedFieldSet := by
  decide +kernel

/-- V22. -/
theorem test_decode_reserved_variants :
    decode 0x00000020 = .error .reservedVariant ∧
    decode 0x00000858 = .error .reservedVariant ∧
    decode 0x00000058 = .error .reservedVariant := by
  decide +kernel

/-- V22. -/
theorem test_decode_reserved_modes :
    decode 0x00000158 = .error .reservedMode ∧
    decode 0x00000D58 = .error .reservedMode := by
  decide +kernel

/-- The host's question for a table word: bits above nbits are dropped. -/
theorem test_decodeTableWord :
    decodeTableWord 32 0x57830010 = some (.gfmul 0x57 0x83) ∧ decodeTableWord 32 0x00000037 = none ∧
    decodeTableWord 16 0x57830559 = some .decrypt128Ecb := by decide +kernel

/-! ## Small states -/

/-- The bytes of a numeral, most significant first. -/
def bytes (n v : Nat) : List Byte := (List.range n).map fun i => BitVec.ofNat 8 (v >>> (8 * (n - 1 - i)))

/-- A block written as a numeral, first byte first. -/
def block (v : Nat) : Block := blockOf (bytes 16 v) 0

/-- MAXLEN 16, LANES 1. -/
def tiny : State := State.resetFor { blocksLessOne := 0, lanesLessOne := 0 }

/-- MAXLEN 32, LANES 2. -/
def small : State := State.resetFor { blocksLessOne := 1, lanesLessOne := 1 }

/-- With a state register. -/
def withSt (s : State) (v : Nat) : State := s.setSt (toState (block v))

/-- With a key of a variant, KEYLEN to match. -/
def withKey (s : State) (x : Variant) (v : Nat) : State :=
  { s with key := Vector.ofFn fun j => (bytes (keyLen x) v).getD j.val 0, keylen := BitVec.ofNat 6 (keyLen x) }

/-- With a message in IN. -/
def withMessage (s : State) (n v : Nat) : State := { s with inBuf := Memory.ofBytes (bytes n v), len := BitVec.ofNat 32 n }

/-- With a result in OUT. -/
def withResult (s : State) (n v : Nat) : State := s.setResult (bytes n v)

/-- With an IV present. -/
def withIv (s : State) (v : Nat) : State := { s with iv := block v, ivp := true }

/-- With the schedule of a key. -/
def withSchedule (s : State) (x : Variant) (v : Nat) : State := s.setSchedule x (schedule x (bytes (keyLen x) v))

/-- 00 01 .. 0f. -/
def index : Nat := 0x000102030405060708090a0b0c0d0e0f

/-- 00 01 .. 17. -/
def index24 : Nat := 0x000102030405060708090a0b0c0d0e0f1011121314151617

/-- 00 01 .. 1f. -/
def index32 : Nat := 0x000102030405060708090a0b0c0d0e0f101112131415161718191a1b1c1d1e1f

/-- The state a command leaves, if it leaves one. -/
def after (i : Instr) (s : State) : Option State :=
  match exec i s with
  | .next t => some t
  | .fault _ => none
  | .refused _ => none

/-- The state one step leaves, if it leaves one. -/
def stepped (s : State) : Option State :=
  match step s with
  | .next t => some t
  | .fault _ => none
  | .refused _ => none

/-- S as a linear block after a command. -/
def stAfter (i : Instr) (s : State) : Option Block := (after i s).map fun t => toLinear t.st

/-- STATUS, OUTLEN and the result after a command. -/
def endOf (i : Instr) (s : State) : Option (Word × Nat × List Byte) :=
  (after i s).map fun t => (statusWord t, t.outlen.toNat, t.result)

theorem exists_next {i : Instr} {s : State} {P : State → Prop} [DecidablePred P]
    (h : (after i s).any (fun t => decide (P t)) = true) : ∃ t, exec i s = .next t ∧ P t := by
  unfold after at h
  cases e : exec i s <;> simp_all

/-! ## One command on a small state -/

/-- V7. -/
theorem test_gfmul :
    (after (.gfmul 0x57 0x83) tiny).map State.gfr = some 0xc1 ∧
    (after (.gfmul 0xff 0xff) tiny).map State.gfr = some 0x13 := by decide +kernel

/-- V8. -/
theorem test_tables :
    sbox 0x53 = 0xed ∧ sbox 0x80 = 0xcd ∧ sbox 0xff = 0x16 ∧ invSbox 0x52 = 0x48 ∧ invSbox 0xff = 0x7d := by
  decide +kernel

/-- V9: the all-zero key of 16 bytes. -/
theorem test_expand128_zero_key :
    (after .expand128 { tiny with keylen := 16 }).map
      (fun t => (statusWord t, t.w.getD 4 0, t.w.getD 8 0, t.w.getD 43 0, t.w.getD 44 0)) =
      some (0x16, 0x62636363, 0x9b9898c9, 0x6f8f188e, 0) := by decide +kernel

/-- V4: the last round key of variant 192, and V11: zero above it. -/
theorem test_expand192 :
    (after .expand192 (withKey tiny .v192 index24)).map
      (fun t => (statusWord t, t.w.getD 48 0, t.w.getD 51 0, t.w.getD 52 0)) =
      some (0x26, 0xa4970a33, 0xe3a41d5d, 0) := by decide +kernel

/-- V4: the last round key of variant 256. -/
theorem test_expand256 :
    (after .expand256 (withKey tiny .v256 index32)).map
      (fun t => (statusWord t, t.w.getD 8 0, t.w.getD 56 0, t.w.getD 59 0)) =
      some (0x36, 0xa573c29f, 0x24fc79cc, 0x6d68de36) := by decide +kernel

/-- V11: the wrong key length, no schedule present. -/
theorem test_expand_wrong_length :
    (after .expand256 (withKey tiny .v128 index)).map (fun t => (statusWord t, t.keylen)) = some (0x102, 0) := by
  decide +kernel

/-- V12, on the index state. -/
theorem test_round_primitives :
    stAfter .subBytes (withSt tiny index) = some (block 0x637c777bf26b6fc53001672bfed7ab76) ∧
    stAfter .invSubBytes (withSt tiny index) = some (block 0x52096ad53036a538bf40a39e81f3d7fb) ∧
    stAfter .shiftRows (withSt tiny index) = some (block 0x00050a0f04090e03080d02070c01060b) ∧
    stAfter .invShiftRows (withSt tiny index) = some (block 0x000d0a0704010e0b0805020f0c090603) ∧
    stAfter .mixColumns (withSt tiny index) = some (block 0x02070005060304010a0f080d0e0b0c09) ∧
    stAfter .invMixColumns (withSt tiny index) = some (block 0x0a0f080d0e0b0c090207000506030401) := by decide +kernel

/-- V13: the orientation of the matrix. -/
theorem test_mixColumns_orientation :
    stAfter .mixColumns (withSt tiny 0xdb135345f20a225c2d26314cd4d4d4d5) =
      some (block 0x8e4da1bc9fdc589d4d7ebdf8d5d5d7d6) := by decide +kernel

/-- V14. -/
theorem test_addRoundKey :
    stAfter (.addRoundKey 0) (withSchedule (withSt tiny 0x3243f6a8885a308d313198a2e0370734) .v128
      0x2b7e151628aed2a6abf7158809cf4f3c) = some (block 0x193de3bea0f4e22b9ac68d2ae9f84808) ∧
    stAfter (.addRoundKey 10) (withSchedule tiny .v128 0x2b7e151628aed2a6abf7158809cf4f3c) =
      some (block 0xd014f9a8c9ee2589e13f0cc8b6630ca6) := by decide +kernel

/-- V14: r above Nr, and no schedule. -/
theorem test_addRoundKey_errors :
    (after (.addRoundKey 11) (withSchedule tiny .v128 index)).map statusWord = some 0x1216 ∧
    (after (.addRoundKey 0) tiny).map statusWord = some 0x1102 := by decide +kernel

/-- V4, variant 256. -/
theorem test_encBlk :
    stAfter .encBlk (withSchedule (withSt tiny 0x00112233445566778899aabbccddeeff) .v256 index32) =
      some (block 0x8ea2b7ca516745bfeafc49904b496089) := by decide +kernel

/-- V4, variant 192. -/
theorem test_decBlk :
    stAfter .decBlk (withSchedule (withSt tiny 0xdda97ca4864cdfe06eaf70a0ec0d7191) .v192 index24) =
      some (block 0x00112233445566778899aabbccddeeff) := by decide +kernel

/-- V16: one byte, and MAXLEN - 1 bytes. -/
theorem test_pad :
    (after .pad (withMessage small 1 0x41)).map (fun t => (t.len, t.message)) =
      some (16, bytes 16 0x410f0f0f0f0f0f0f0f0f0f0f0f0f0f0f) ∧
    (after .pad (withMessage small 31 0)).map (fun t => (t.len, t.inByte 30, t.inByte 31)) = some (32, 0, 1) := by
  decide +kernel

/-- V17: a valid run of three, and a run that is broken. -/
theorem test_unpad :
    endOf .unpad (withResult small 16 0x00000000000000000000000000030303) = some (2, 13, bytes 13 0) ∧
    endOf .unpad (withResult small 16 0x00000000000000000000000000000302) = some (0x402, 0, []) := by decide +kernel

/-- V18: LEN = 16. -/
theorem test_ldBlk :
    stAfter (.ldBlk 0) (withMessage small 16 index) = some (block index) ∧
    (after (.ldBlk 1) (withMessage small 16 index)).map statusWord = some 0x1202 := by decide +kernel

/-- V18: OUTLEN from 0 to the end of block 1, block 0 staying zero; a block past MAXLEN. -/
theorem test_stBlk :
    endOf (.stBlk 1) (withSt small index) = some (2, 32, bytes 32 index) ∧
    (after (.stBlk 2) small).map statusWord = some 0x1202 := by decide +kernel

/-- V21. -/
theorem test_chIv :
    (after .chIv (withIv tiny index)).map (fun t => wordAt t.chain 3) = some 0x0c0d0e0f ∧
    (after .chIv tiny).map statusWord = some 0x302 := by decide +kernel

/-- V21. -/
theorem test_chS :
    (after .chS (withSt tiny 0x7649abac8119b246cee98e9b12e9197d)).map (fun t => wordAt t.chain 0) = some 0x7649abac := by
  decide +kernel

/-- P3, the row of block 1. -/
theorem test_chBlk :
    (after (.chBlk 1) (withMessage small 32
      0x7649abac8119b246cee98e9b12e9197d276fb8b0b23bb6b56b3b09cfa5fd7973)).map State.chain =
      some (block 0x276fb8b0b23bb6b56b3b09cfa5fd7973) := by decide +kernel

/-- V21. -/
theorem test_xch :
    stAfter .xch ((withSt tiny 0x6bc1bee22e409f96e93d7e117393172a).setChain (block index)) =
      some (block 0x6bc0bce12a459991e134741a7f9e1925) := by decide +kernel

/-- V26. -/
theorem test_nop_and_clear :
    (after .nop { tiny with errcode := 0x10 }).map statusWord = some 2 ∧
    after .clear (withIv (withKey (withResult small 16 index) .v128 index) index) =
      some { small with done := true } := by decide +kernel

/-- V20: the empty message, both modes. -/
theorem test_encrypt128_empty :
    endOf .encrypt128Ecb (withKey tiny .v128 index) = some (2, 16, bytes 16 0x954f64f2e4e86e9eee82d20216684899) ∧
    endOf .encrypt128Cbc (withIv (withKey tiny .v128 index) index) =
      some (2, 16, bytes 16 0x07feef74e1d5036e900eee118e949293) := by decide +kernel

/-- V19, the first block of m, CBC. -/
theorem test_encrypt192 :
    endOf .encrypt192Cbc (withIv (withMessage
      (withKey small .v192 0x8e73b0f7da0e6452c810f32b809079e562f8ead2522c6b7b) 16
      0x6bc1bee22e409f96e93d7e117393172a) index) =
      some (2, 32, bytes 32 0x4f021db243bc633d7178183a9fa071e8a647f1643b94812a175a13c8fa2014b2) := by decide +kernel

/-- V19, the first block of m, ECB. -/
theorem test_encrypt256 :
    endOf .encrypt256Ecb (withMessage (withKey small .v256
      0x603deb1015ca71be2b73aef0857d77811f352c073b6108d72d9810a30914dff4) 16 0x6bc1bee22e409f96e93d7e117393172a) =
      some (2, 32, bytes 32 0xf3eed1bdb5d2a03c064b5a7e3db181f84c45dfb3b3b484ec35b0512dc8c1c4d6) := by decide +kernel

/-- V20, the empty message in ECB; P3, 18 bytes in CBC. -/
theorem test_decrypt128 :
    endOf .decrypt128Ecb (withMessage (withKey tiny .v128 index) 16 0x954f64f2e4e86e9eee82d20216684899) =
      some (2, 0, []) ∧
    endOf .decrypt128Cbc (withIv (withMessage (withKey small .v128 0x2b7e151628aed2a6abf7158809cf4f3c) 32
      0x7649abac8119b246cee98e9b12e9197d276fb8b0b23bb6b56b3b09cfa5fd7973) index) =
      some (2, 18, bytes 18 0x6bc1bee22e409f96e93d7e117393172a4869) := by decide +kernel

/-- V19, ECB. -/
theorem test_decrypt192 :
    endOf .decrypt192Ecb (withMessage (withKey small .v192 0x8e73b0f7da0e6452c810f32b809079e562f8ead2522c6b7b) 32
      0xbd334f1d6e45f25ff712a214571fa5ccdaa0af074bd8083c8a32d4fc563c55cc) =
      some (2, 16, bytes 16 0x6bc1bee22e409f96e93d7e117393172a) := by decide +kernel

/-- V19, CBC. -/
theorem test_decrypt256 :
    endOf .decrypt256Cbc (withIv (withMessage (withKey small .v256
      0x603deb1015ca71be2b73aef0857d77811f352c073b6108d72d9810a30914dff4) 32
      0xf58c4c04d6e5f1ba779eabfb5f7bfbd6485a5c81519cf378fa36d42b8547edc0) index) =
      some (2, 16, bytes 16 0x6bc1bee22e409f96e93d7e117393172a) := by decide +kernel

/-- V23: the order of the checks of DECRYPT. -/
theorem test_decrypt_priority :
    (after .decrypt256Cbc { tiny with keylen := 16, len := 17 }).map statusWord = some 0x102 ∧
    (after .decrypt256Cbc { tiny with keylen := 32, len := 17 }).map statusWord = some 0x202 ∧
    (after .decrypt256Cbc { tiny with keylen := 32, len := 32 }).map statusWord = some 0x302 ∧
    (after .decrypt256Cbc { tiny with keylen := 32, len := 4112, ivp := true }).map statusWord = some 0x1302 ∧
    (after .decrypt256Cbc { tiny with keylen := 32, ivp := true }).map statusWord = some 0x402 := by decide +kernel

/-- V24: the capacity of ENCRYPT. -/
theorem test_encrypt_capacity :
    (after .encrypt128Ecb { tiny with keylen := 16, len := 16 }).map statusWord = some 0x1302 ∧
    (after .encrypt128Ecb { tiny with keylen := 16, len := 0xFFFFFFFF }).map statusWord = some 0x1302 := by
  decide +kernel

/-! ## The bus and the steps -/

/-- V25, at the default MAXLEN. -/
theorem test_bus_edges :
    [0x00001C, 0x000070, 0x0001F0, 0x101000, 0x201000, 0x300000, 0x000002, 0x000020, 0x100FFC].map
      (fun a => busRead State.reset a 4) =
      [.busError, .busError, .busError, .busError, .busError, .busError, .busError, .data 0, .data 0] := by
  decide +kernel

/-- V25: PARAM keeps KEYLEN and IVP only. -/
theorem test_param_masks :
    busRead (busWrite State.reset 0x000008 4 0xFFFFFFFF) 0x000008 4 = .data 0x0000013F := by decide +kernel

/-- V26: an illegal word completes at its write. -/
theorem test_illegal_word :
    (stepped { tiny with pending := [.write 0x000000 4 0x37] }).map (fun t => (statusWord t, t.lastcmd, t.answers)) =
      some (0x1002, 0x37, [.ok]) := by decide +kernel

/-- R85: a busy engine ignores a write to LEN and answers OK. -/
theorem test_busy_write_ignored :
    (stepped { tiny with busy := true, seq := .running 3, pending := [.write 0x00000C 4 5] }).map
      (fun t => (t.len, t.answers, t.seq)) = some (0, [.ok], .running 2) := by decide +kernel

/-- R290: reset while a command runs. -/
theorem test_reset_while_running :
    stepped { launchedNow (withSt tiny index) 0x30 with seq := .running 1, pending := [.reset] } = some tiny := by
  decide +kernel

/-- The step after withFetchWord runs the word, on the reset state. -/
theorem test_withFetchWord_runs :
    (stepped (State.reset.withFetchWord 32 0x57830010)).map (fun t => (t.gfr, statusWord t, t.lastcmd)) =
      some (0xc1, 2, 0x57830010) := by decide +kernel

/-- R112: RDOUT reads OUTLEN and asks for the words that hold the result. -/
theorem test_readOut :
    (stepped { withResult small 17 0 with pending := [.readOut] }).map (fun t => (t.answers, t.pending)) =
      some ([.data 17], [.read 0x200000 4, .read 0x200004 4, .read 0x200008 4, .read 0x20000C 4, .read 0x200010 4]) := by
  decide +kernel

/-- R256: a call that ended with an error (ERRCODE 0x02) reads nothing; one that ended without reads OUTLEN. -/
theorem test_readResult :
    (stepped { small with pending := [.readResult], answers := [.data 0x202] }).map (fun t => (t.answers, t.pending)) =
      some ([.data 0x202], []) ∧
    (stepped { withResult small 3 0 with pending := [.readResult], answers := [.data 0x6] }).map
      (fun t => (t.answers, t.pending)) = some ([.data 3, .data 0x6], [.read 0x200000 4]) := by decide +kernel

/-- R256: a key of 80 bytes declares KEYLEN 63, not 80 mod 64 = 16, and none of its words falls outside KEY. -/
theorem test_longKey :
    callOperands [] (List.replicate 80 1) none =
      [.write 0x00000C 4 0] ++ (List.range 8).map (fun k => .write (BitVec.ofNat 24 (0x20 + 4 * k)) 4 0x01010101) ++
        [.write 0x000008 4 63] := by decide +kernel

/-- R112: LDMSG fills the last word with zeros and writes LEN. -/
theorem test_ldMsgOps :
    ldMsgOps (bytes 5 0x48656c6c6f) =
      [.write 0x100000 4 0x48656c6c, .write 0x100004 4 0x6f000000, .write 0x00000C 4 5] := by decide +kernel

/-! ## Witnesses: for every obligation with hypotheses, states and operands that meet them together -/

/-- An idle engine whose host writes a word to CMD. -/
def cmdWrite (v : Word) (delays : List Nat) : State := { small with pending := [.write 0x000000 4 v], delays := delays }

/-- A launched NOP with n host operations left before it completes, and the operations the host has pending. -/
def runningNop (n : Nat) (ops : List HostOp) : State := { launchedNow small 0 with seq := .running n, pending := ops }

/-- One byte of result in OUT. -/
def oneByte : State := { small with outBuf := [(0, 5)], outlen := 1 }

theorem oneByte_buffersOk (ops : List HostOp) : BuffersOk { oneByte with pending := ops } where
  inWf := rfl
  outWf := rfl
  inBelow := rfl
  outBelow := rfl
  outlenLe := by change 1 ≤ 32; omega
  outZero := by
    intro j hj
    have : (0 : Nat) ≠ j := by
      have : (1 : Nat) ≤ j := hj
      omega
    simp [State.outByte, oneByte, Memory.read, this]

theorem test_witness_DecodeOfEncodeIsIdentity :
    (Instr.addRoundKey 65535).wf = true ∧ (Instr.ldBlk 0).wf = true ∧ Instr.decrypt256Cbc.wf = true := by decide

theorem test_witness_LegalWordIsItsCommandsWord : decode 0xFFFF0052 = .ok (.chBlk 65535) := by decide +kernel

theorem test_witness_FieldDecoderAgreesWithOpcodeRows :
    decode 0xFFFF0052 = .ok (.chBlk 65535) ∧ Instr.chBlk 0 ∈ tableRows ∧ selectsRow 0xFFFF0052 (.chBlk 0) = true := by
  decide +kernel

theorem test_witness_StepRunsDecodedInstruction :
    (runningNop 0 []).seq = .running 0 ∧ decode (runningNop 0 []).lastcmd = .ok .nop := by decide +kernel

theorem test_witness_CommandWriteLaunchesAndRuns :
    ((cmdWrite 0x53 []).seq = .idle ∧ (cmdWrite 0x53 []).busy = false ∧
      (cmdWrite 0x53 []).pending = .write 0x000000 4 0x53 :: [] ∧ decode 0x53 = .ok .xch ∧
      (cmdWrite 0x53 []).delays.headD 0 = 0) ∧
    (cmdWrite 0x53 [2]).seq = .idle ∧ (cmdWrite 0x53 [2]).delays.headD 0 = 2 := by decide +kernel

theorem test_witness_IllegalWordCompletesWithIllegalCommand :
    small.seq = .idle ∧ small.busy = false ∧ decode 0x37 = .error .reservedOpcode := by decide +kernel

theorem test_witness_RunningCommandTerminates :
    (runningNop 0 []).seq = .running 0 ∧ (runningNop 2 [.reset]).seq = .running 2 := by decide

theorem test_witness_ResetZeroesEverything :
    (runningNop 1 [.reset]).pending = .reset :: [] ∧ (runningNop 1 [.reset]).seq ≠ .running 0 ∧
    ({ oneByte with pending := [.reset] } : State).seq ≠ .running 0 := by decide

theorem test_witness_StepKeepsBufferInvariant :
    ∃ s t : State, BuffersOk s ∧ s.outlen ≠ 0 ∧ step s = .next t ∧ t ≠ s :=
  ⟨{ oneByte with pending := [.write 0x00000C 4 7] }, _, oneByte_buffersOk _, by decide, rfl, by decide +kernel⟩

theorem test_witness_StepKeepsScheduleInvariant :
    ∃ s t : State, ScheduleOk s ∧ s.schedValid = true ∧ step s = .next t ∧ t ≠ s :=
  ⟨{ withSchedule (launchedNow small 0x320) .v192 index24 with keylen := 32 }, _,
    { valid := fun _ => ⟨.v192, bytes 24 index24, rfl, rfl, rfl⟩, invalid := nofun }, rfl, rfl, by decide +kernel⟩

theorem test_witness_StepKeepsFlagInvariant :
    ∃ s t : State, FlagsOk s ∧ s.busy = true ∧ step s = .next t ∧ t ≠ s :=
  ⟨runningNop 0 [], _,
    { busySeq := by decide
      running := fun _ => ⟨rfl, rfl, .nop, by decide +kernel⟩
      codes := .inl rfl }, rfl, rfl, by decide +kernel⟩

theorem test_witness_BusErrorExactlyOnRefusedAccess :
    writeAnswer small 0x100020 4 = .busError ∧ writeAnswer small 0x10001C 4 = .ok ∧
    writeAnswer small 0x000070 4 = .busError ∧ writeAnswer small 0x00006C 4 = .ok ∧
    writeAnswer small 0x00001C 4 = .busError ∧ writeAnswer small 0x000018 1 = .busError := by decide +kernel

theorem test_witness_BusyEngineAnswersOnlyStatus :
    (runningNop 1 []).busy = true ∧
    ((0x10001C : Addr).toNat % 4 = 0 ∧ Mapped (runningNop 1 []).maxLen (0x10001C : Addr).toNat ∧
      (0x10001C : Addr) ≠ 0x000004) ∧
    ¬((0x100020 : Addr).toNat % 4 = 0 ∧ Mapped (runningNop 1 []).maxLen (0x100020 : Addr).toNat) := by
  unfold Mapped
  decide +kernel

theorem test_witness_HostReadChangesNothing :
    (runningNop 1 [.read 0x000004 4]).pending = .read 0x000004 4 :: [] ∧
    (runningNop 1 [.read 0x000004 4]).seq ≠ .running 0 ∧
    ({ small with pending := [.read 0x000003 4] } : State).seq ≠ .running 0 := by decide

theorem test_witness_HostWriteTakesEffect :
    ((cmdWrite 0 []).pending = .write 0x000000 4 0 :: [] ∧ (cmdWrite 0 []).seq ≠ .running 0) ∧
    ((runningNop 1 [.write 0x10001C 4 7]).pending = .write 0x10001C 4 7 :: [] ∧
      (runningNop 1 [.write 0x10001C 4 7]).seq ≠ .running 0 ∧ (runningNop 1 [.write 0x10001C 4 7]).busy = true ∧
      (0x10001C : Addr).toNat % 4 = 0 ∧ Mapped (runningNop 1 []).maxLen (0x10001C : Addr).toNat) ∧
    Mapped small.maxLen (0x000000 : Addr).toNat := by
  unfold Mapped
  decide +kernel

theorem test_witness_StatusAndParamFields : small.busy = false := rfl

theorem test_witness_KeyWordWriteStoresFourBytes : small.busy = false ∧ 0 < 8 ∧ 7 < 8 := by decide

theorem test_witness_IdleReadReturnsRegister :
    small.busy = false ∧ 4 * 0 < small.maxLen ∧ 4 * 7 < small.maxLen ∧ ¬4 * 8 < small.maxLen := by decide +kernel

theorem test_witness_WrittenWordReadsBack :
    oneByte.busy = false ∧ BuffersOk oneByte ∧ 4 * 0 < oneByte.maxLen ∧ 4 * 7 < oneByte.maxLen ∧
    [0x00000C, 0x000040, (0x00005C : Addr)].all (fun a => decide (a.toNat % 4 = 0 ∧
      (a = 0x00000C ∨ (0x040 ≤ a.toNat ∧ a.toNat ≤ 0x05C)))) = true :=
  ⟨rfl, oneByte_buffersOk [], by decide +kernel, by decide +kernel, by decide +kernel⟩

theorem test_witness_ReadOnlyWritesChangeNothing :
    [0x000004, 0x000010, 0x000018, 0x000060, 0x00006C, 0x000100, 0x0001EC, 0x200000, (0x20001C : Addr)].all
      (fun a => decide (a.toNat % 4 = 0 ∧
        (a = 0x000004 ∨ (0x010 ≤ a.toNat ∧ a.toNat ≤ 0x018) ∨ (0x060 ≤ a.toNat ∧ a.toNat ≤ 0x06C) ∨
          (0x100 ≤ a.toNat ∧ a.toNat ≤ 0x1EC) ∨
          (0x200000 ≤ a.toNat ∧ a.toNat < 0x200000 + small.maxLen)))) = true := by decide +kernel

theorem test_witness_GfMulFieldLaws : (0x53 : Byte) ≠ 0 ∧ (0xca : Byte) ≠ 0 := by decide

theorem test_witness_RoundConstantsDouble : 1 ≤ 1 ∧ 1 ≤ 9 := by decide

theorem test_witness_ExpandFollowsRecurrence :
    ∀ x ∈ [Variant.v128, .v192, .v256], (withKey tiny x index32).keylen.toNat = keyLen x ∧ nk x < nw x ∧ nw x ≤ 60 := by
  decide +kernel

theorem test_witness_ExpandRejectsWrongKeyLength :
    (withKey tiny .v128 index).keylen.toNat ≠ keyLen .v256 ∧ tiny.keylen.toNat ≠ keyLen .v128 := by decide +kernel

theorem test_witness_AddRoundKeyCommand :
    (withSchedule tiny .v128 index).schedValid = true ∧ 10 ≤ nrOfCode (withSchedule tiny .v128 index).schedVar ∧
    14 ≤ nrOfCode (withSchedule tiny .v256 index32).schedVar := by decide +kernel

theorem test_witness_ScheduleErrorsChangeNothing :
    tiny.schedValid = false ∧ Instr.decBlk ∈ [Instr.addRoundKey 0, .encBlk, .decBlk] ∧
    (withSchedule tiny .v128 index).schedValid = true ∧ nrOfCode (withSchedule tiny .v128 index).schedVar < 11 ∧
    nrOfCode (withSchedule tiny .v256 index32).schedVar < 15 := by decide +kernel

theorem test_witness_BlockCommandsArePrimitiveSequences : (withSchedule small .v128 index).schedValid = true := rfl

theorem test_witness_DecBlkUndoesEncBlk : (withSchedule small .v192 index24).schedValid = true := rfl

theorem test_witness_PadAppendsCount : (bytes 16 index).length % 16 = 0 ∧ ([] : List Byte).length % 16 = 0 := by decide

theorem test_witness_UnpadAcceptsExactlyPaddedBuffers :
    bytes 2 0x0202 = [] ++ List.replicate 2 (BitVec.ofNat 8 2) ∧ unpad (bytes 2 0x0202) = some [] := by decide +kernel

theorem test_witness_PadCommandPadsInPlace :
    (withMessage small 31 0).len.toNat < (withMessage small 31 0).maxLen ∧ small.len.toNat < small.maxLen := by
  decide +kernel

/-- Valid padding of 16 and of 1 bytes; no valid padding in the empty result, nor in a result that ends in 0. -/
theorem test_witness_UnpadCommand :
    (Memory.wf (withResult small 16 (0x10101010101010101010101010101010)).outBuf = true ∧
      (withResult small 16 (0x10101010101010101010101010101010)).result = [] ++ List.replicate 16 (BitVec.ofNat 8 16)) ∧
    (withResult small 2 0x0501).result = [5] ++ List.replicate 1 (BitVec.ofNat 8 1) ∧
    (Memory.wf small.outBuf = true ∧ ∀ (r : List Byte) (p : Nat), 1 ≤ p → p ≤ 16 →
      small.result ≠ r ++ List.replicate p (BitVec.ofNat 8 p)) := by
  refine ⟨by decide +kernel, by decide +kernel, rfl, ?_⟩
  intro r p hp _ h
  have hl := congrArg List.length h
  rw [show small.result = [] from rfl] at hl
  simp only [List.length_nil, List.length_append, List.length_replicate] at hl
  omega

theorem test_witness_BlockLoadsReadInput :
    (withMessage small 32 index32).len.toNat ≤ (withMessage small 32 index32).maxLen ∧
    16 * 1 + 16 ≤ (withMessage small 32 index32).len.toNat := by decide +kernel

theorem test_witness_BlockStoreWritesOutput :
    Memory.wf oneByte.outBuf = true ∧ 16 * 0 + 16 ≤ oneByte.maxLen ∧ 16 * 1 + 16 ≤ oneByte.maxLen := by decide +kernel

theorem test_witness_BufferErrorsChangeNothing :
    (withMessage small 32 0).maxLen ≤ (withMessage small 32 0).len.toNat ∧
    Instr.chBlk 1 ∈ [Instr.ldBlk 1, .chBlk 1] ∧ small.maxLen < ({ small with len := 33 } : State).len.toNat ∧
    ((withMessage small 31 0).len.toNat ≤ small.maxLen ∧ (withMessage small 31 0).len.toNat < 16 * 1 + 16) ∧
    small.maxLen < 16 * 2 + 16 := by decide +kernel

theorem test_witness_ControlCommands : ({ oneByte with lastcmd := 1 } : State).lastcmd = encode .clear := by
  decide +kernel

theorem test_witness_ChainFromIv : (withIv small index).ivp = true ∧ small.ivp = false := by decide

theorem test_witness_EncryptBlockByBlock :
    ((withKey tiny .v128 index).keylen.toNat = keyLen .v128 ∧ (Mode.ecb = .cbc → (withKey tiny .v128 index).ivp = true) ∧
      (withKey tiny .v128 index).len.toNat < tiny.maxLen) ∧
    (withIv (withMessage (withKey small .v256 index32) 31 0) index).keylen.toNat = keyLen .v256 ∧
    (Mode.cbc = .cbc → (withIv (withMessage (withKey small .v256 index32) 31 0) index).ivp = true) ∧
    (withIv (withMessage (withKey small .v256 index32) 31 0) index).len.toNat < small.maxLen := by decide +kernel

/-- The ciphertext of the empty message (V20) in the smallest buffer: LEN = MAXLEN = 16. -/
def cipherEcb : State := withMessage (withKey tiny .v128 index) 16 0x954f64f2e4e86e9eee82d20216684899

/-- The same in CBC. -/
def cipherCbc : State := withIv (withMessage (withKey tiny .v128 index) 16 0x07feef74e1d5036e900eee118e949293) index

theorem test_witness_DecryptBlockByBlock :
    (cipherEcb.keylen.toNat = keyLen .v128 ∧ cipherEcb.len.toNat % 16 = 0 ∧
      (Mode.ecb = .cbc → cipherEcb.ivp = true) ∧ cipherEcb.len.toNat ≤ cipherEcb.maxLen ∧
      (List.replicate 16 (0x10 : Byte)).length = cipherEcb.len.toNat ∧
      (∀ i < cipherEcb.len.toNat / 16, blockOf (List.replicate 16 0x10) i = plainBlock cipherEcb .v128 .ecb i) ∧
      List.replicate 16 0x10 = [] ++ List.replicate 16 (BitVec.ofNat 8 16)) ∧
    cipherCbc.keylen.toNat = keyLen .v128 ∧ cipherCbc.len.toNat % 16 = 0 ∧
    (Mode.cbc = .cbc → cipherCbc.ivp = true) ∧ cipherCbc.len.toNat ≤ cipherCbc.maxLen ∧
    (List.replicate 16 (0x10 : Byte)).length = cipherCbc.len.toNat ∧
    ∀ i < cipherCbc.len.toNat / 16, blockOf (List.replicate 16 0x10) i = plainBlock cipherCbc .v128 .cbc i := by
  decide +kernel

/-- A block of zeros: it decrypts to no padded message under the key 00 .. 0f. -/
def noCipher : State := withMessage (withKey tiny .v128 index) 16 0

theorem test_witness_DecryptRejectsBadPadding :
    ∃ b : List Byte, noCipher.keylen.toNat = keyLen .v128 ∧ noCipher.len.toNat % 16 = 0 ∧
      (Mode.ecb = .cbc → noCipher.ivp = true) ∧ noCipher.len.toNat ≤ noCipher.maxLen ∧
      b.length = noCipher.len.toNat ∧
      (∀ i < noCipher.len.toNat / 16, blockOf b i = plainBlock noCipher .v128 .ecb i) ∧
      ∀ (r : List Byte) (p : Nat), 1 ≤ p → p ≤ 16 → b ≠ r ++ List.replicate p (BitVec.ofNat 8 p) := by
  refine ⟨(plainBlock noCipher .v128 .ecb 0).toList, by decide +kernel, by decide +kernel, nofun, by decide +kernel,
    by decide +kernel, by decide +kernel, fun r p hp hp' h => ?_⟩
  have hlast : (plainBlock noCipher .v128 .ecb 0).toList.getLast?.any (fun q => decide (1 ≤ q.toNat ∧ q.toNat ≤ 16)) =
      false := by decide +kernel
  obtain ⟨k, rfl⟩ : ∃ k, p = k + 1 := ⟨p - 1, by omega⟩
  rw [h, List.replicate_succ', ← List.append_assoc, List.getLast?_concat] at hlast
  simp only [Option.any_some, BitVec.toNat_ofNat, decide_eq_false_iff_not] at hlast
  omega

theorem test_witness_MessageErrorsInOrder :
    Instr.decrypt256Cbc ∈ [encryptInstr .v256 .cbc, decryptInstr .v256 .cbc] ∧ tiny.keylen.toNat ≠ keyLen .v256 ∧
    (({ tiny with keylen := 32, len := 17 } : State).keylen.toNat = keyLen .v256 ∧
      ({ tiny with keylen := 32, len := 17 } : State).len.toNat % 16 ≠ 0) ∧
    (({ tiny with keylen := 32 } : State).ivp = false ∧ ({ tiny with keylen := 32 } : State).len.toNat % 16 = 0) ∧
    (({ tiny with keylen := 32, ivp := true, len := 16 } : State).maxLen ≤
      ({ tiny with keylen := 32, ivp := true, len := 16 } : State).len.toNat) ∧
    ({ tiny with keylen := 32, ivp := true, len := 32 } : State).len.toNat % 16 = 0 ∧
    ({ tiny with keylen := 32, ivp := true, len := 32 } : State).maxLen <
      ({ tiny with keylen := 32, ivp := true, len := 32 } : State).len.toNat := by decide +kernel

theorem test_witness_MessageCommandsLeaveNoSecret :
    Instr.encrypt192Cbc ∈ [encryptInstr .v192 .cbc, decryptInstr .v192 .cbc] := by decide

/-- Two engines that differ in everything ENCRYPT.128.ECB does not read: the rest of KEY, the IV, S, IN above LEN. -/
theorem test_witness_MessageResultDependsOnInputsOnly :
    ∃ s t : State, SameInputs .v128 .ecb s t ∧ s ≠ t ∧ Instr.encrypt128Ecb ∈ [encryptInstr .v128 .ecb, decryptInstr .v128 .ecb] := by
  refine ⟨withKey tiny .v128 index, withIv (withSt { withKey tiny .v128 index with inBuf := [(0, 9)] } index) index, ?_,
    by decide +kernel, by decide⟩
  refine ⟨fun j _ => rfl, rfl, rfl, fun j hj => absurd hj (Nat.not_lt_zero j), rfl, nofun⟩

theorem test_witness_DecryptUndoesEncrypt :
    (withKey tiny .v128 index).keylen.toNat = keyLen .v128 ∧ (Mode.ecb = .cbc → (withKey tiny .v128 index).ivp = true) ∧
    (withKey tiny .v128 index).len.toNat < tiny.maxLen ∧
    ∃ t, exec .encrypt128Ecb (withKey tiny .v128 index) = .next t ∧
      (cipherEcb.key = (withKey tiny .v128 index).key ∧ cipherEcb.keylen = (withKey tiny .v128 index).keylen ∧
        cipherEcb.iv = tiny.iv ∧ cipherEcb.ivp = tiny.ivp ∧ cipherEcb.maxLen = tiny.maxLen ∧
        cipherEcb.len = t.outlen ∧ ∀ j < t.outlen.toNat, cipherEcb.inByte j = t.outByte j) :=
  ⟨by decide +kernel, nofun, by decide +kernel, exists_next (by decide +kernel)⟩

/-- Two blocks of ECB, the lanes taking block 1 first. -/
theorem test_witness_EncryptSequenceReachesCompletion :
    (withMessage (withKey small .v192 index24) 31 0).keylen.toNat = keyLen .v192 ∧
    (Mode.ecb = .cbc → (withMessage (withKey small .v192 index24) 31 0).ivp = true) ∧
    (withMessage (withKey small .v192 index24) 31 0).len.toNat < small.maxLen ∧
    Memory.wf (withMessage (withKey small .v192 index24) 31 0).outBuf = true ∧
    [[1], [0]].flatten.Perm (List.range ((withMessage (withKey small .v192 index24) 31 0).len.toNat / 16 + 1)) := by
  decide +kernel

theorem test_witness_DecryptSequenceReachesCompletion :
    (withIv (withMessage (withKey small .v192 index24) 32 0) index).keylen.toNat = keyLen .v192 ∧
    (withIv (withMessage (withKey small .v192 index24) 32 0) index).len.toNat % 16 = 0 ∧
    (Mode.cbc = .cbc → (withIv (withMessage (withKey small .v192 index24) 32 0) index).ivp = true) ∧
    (withIv (withMessage (withKey small .v192 index24) 32 0) index).len.toNat ≤ small.maxLen ∧
    Memory.wf (withIv (withMessage (withKey small .v192 index24) 32 0) index).outBuf = true ∧
    [[1, 0]].flatten.Perm
      (List.range ((withIv (withMessage (withKey small .v192 index24) 32 0) index).len.toNat / 16)) := by
  decide +kernel

theorem test_witness_LaneBatchesCoverBlocksOnce :
    [0, 1] ∈ laneBatches small.cfg 3 ∧ [2] ∈ laneBatches small.cfg 3 := by decide +kernel

theorem test_witness_PrimitiveCommandsDoEncrypt :
    ∃ s : State, BuffersOk s ∧ s.outlen = 0 ∧ s.keylen.toNat = keyLen .v256 ∧ (Mode.cbc = .cbc → s.ivp = true) ∧
      s.len.toNat < s.maxLen :=
  ⟨{ withIv (withKey small .v256 index32) index with inBuf := [(0, 5)], len := 31 },
    { inWf := rfl, outWf := rfl, inBelow := rfl, outBelow := rfl, outlenLe := by decide, outZero := fun _ _ => rfl },
    rfl, by decide +kernel, fun _ => rfl, by decide +kernel⟩

theorem test_witness_PrimitiveCommandsDoDecrypt :
    ∃ s : State, BuffersOk s ∧ s.outlen = 0 ∧ s.keylen.toNat = keyLen .v256 ∧ (Mode.cbc = .cbc → s.ivp = true) ∧
      s.len.toNat % 16 = 0 ∧ 0 < s.len.toNat ∧ s.len.toNat ≤ s.maxLen :=
  ⟨{ withIv (withKey small .v256 index32) index with inBuf := [(0, 5)], len := 32 },
    { inWf := rfl, outWf := rfl, inBelow := rfl, outBelow := rfl, outlenLe := by decide, outZero := fun _ _ => rfl },
    rfl, by decide +kernel, fun _ => rfl, by decide +kernel, by decide +kernel, by decide +kernel⟩

end Sys2Proof.Tests
end

/-! PROOFS. How the bus finds a target, the fields of STATUS and PARAM, a word stored in a byte array, and reset; then
the obligations O19, O20 and O10 about spec/10_state.md. -/

namespace Sys2Proof.Machine

/-! ## Accesses to a known target -/

section
variable {s : State} {addr : Addr} {width : Nat} {t : Target}

theorem busRead_status (h : accessTarget s addr width = some .status) :
    busRead s addr width = .data (statusWord s) := by
  simp [busRead, h, targetValue]

theorem busRead_of_idle (h : accessTarget s addr width = some t) (hidle : s.busy = false) :
    busRead s addr width = .data (targetValue s t) := by
  simp [busRead, h, hidle]

theorem busWrite_of_idle (v : Word) (h : accessTarget s addr width = some t) (hidle : s.busy = false) :
    busWrite s addr width v = writeTarget s v t := by
  simp [busWrite, h, hidle]

end

theorem accessTarget_ofNat (s : State) {a : Nat} (ha : a < 2 ^ 24) (h4 : a % 4 = 0) :
    accessTarget s (BitVec.ofNat 24 a) 4 = targetAt s.maxLen a := by
  have hn : (BitVec.ofNat 24 a).toNat = a := by rw [BitVec.toNat_ofNat, Nat.mod_eq_of_lt ha]
  rw [accessTarget, hn, if_pos ⟨rfl, h4⟩]

theorem accessTarget_status (s : State) : accessTarget s 0x000004 4 = some .status := rfl

theorem accessTarget_param (s : State) : accessTarget s 0x000008 4 = some .param := rfl

/-- KEYk lies at `0x020 + 4k` (spec/10_state.md R40). -/
theorem accessTarget_key (s : State) {k : Nat} (hk : k < 8) :
    accessTarget s (BitVec.ofNat 24 (0x020 + 4 * k)) 4 = some (.key k) := by
  rw [accessTarget_ofNat s (by omega) (by omega)]
  interval_cases k <;> rfl

/-! ## STATUS and PARAM, bit by bit -/

/-- The layout of STATUS (spec/10_state.md R42). -/
theorem statusWord_getLsbD (s : State) (i : Nat) :
    (statusWord s).getLsbD i =
      if i = 0 then s.busy else if i = 1 then s.done else if i = 2 then s.schedValid else if i = 3 then false
      else if i < 6 then s.schedVar.getLsbD (i - 4) else if i < 8 then false else s.errcode.getLsbD (i - 8) := by
  change (0#16 ++ s.errcode ++ 0#2 ++ s.schedVar ++ 0#1 ++ BitVec.ofBool s.schedValid ++ BitVec.ofBool s.done ++
    BitVec.ofBool s.busy : BitVec (16 + 8 + 2 + 2 + 1 + 1 + 1 + 1)).getLsbD i = _
  simp only [BitVec.getLsbD_append, BitVec.getLsbD_ofBool, BitVec.getLsbD_zero, Nat.sub_sub]
  rcases Nat.lt_or_ge i 8 with hlow | hhigh
  · interval_cases i <;> simp
  · have pastErrcode (h : 16 ≤ i) : s.errcode.getLsbD (i - 8) = false := BitVec.getLsbD_of_ge _ _ (by omega)
    split_ifs <;> first | omega | rfl | exact (pastErrcode (by omega)).symm

/-- A field of STATUS is known by its bits. -/
theorem statusWord_field {s : State} {lo n : Nat} {x : BitVec n}
    (h : ∀ i < n, (statusWord s).getLsbD (lo + i) = x.getLsbD i) : (statusWord s).extractLsb' lo n = x :=
  BitVec.eq_of_getLsbD_eq fun i hi => by
    rw [BitVec.getLsbD_extractLsb', decide_eq_true hi, Bool.true_and, h i hi]

theorem statusWord_schedVar (s : State) : (statusWord s).extractLsb' 4 2 = s.schedVar :=
  statusWord_field fun i hi => by
    rw [statusWord_getLsbD, if_neg (by omega), if_neg (by omega), if_neg (by omega), if_neg (by omega),
      if_pos (by omega), Nat.add_sub_cancel_left]

theorem statusWord_errcode (s : State) : (statusWord s).extractLsb' 8 8 = s.errcode :=
  statusWord_field fun i hi => by
    rw [statusWord_getLsbD, if_neg (by omega), if_neg (by omega), if_neg (by omega), if_neg (by omega),
      if_neg (by omega), if_neg (by omega), Nat.add_sub_cancel_left]

theorem statusWord_reserved (s : State) :
    (statusWord s).getLsbD 3 = false ∧ (statusWord s).extractLsb' 6 2 = 0 ∧
      (statusWord s).extractLsb' 16 16 = 0 := by
  refine ⟨statusWord_getLsbD s 3, statusWord_field fun i hi => ?_, statusWord_field fun i hi => ?_⟩
  · rw [statusWord_getLsbD]
    interval_cases i <;> rfl
  · have pastErrcode : s.errcode.getLsbD (16 + i - 8) = false := BitVec.getLsbD_of_ge _ _ (by omega)
    rw [statusWord_getLsbD, pastErrcode, BitVec.ofNat_eq_ofNat, BitVec.getLsbD_zero]
    split_ifs <;> first | rfl | omega

/-- PARAM in the shifted form of spec/10_state.md R43: KEYLEN below bit 6, nothing in bits 7:6, IVP in bit 8. -/
theorem paramWord_eq (s : State) :
    paramWord s = ((BitVec.ofBool s.ivp).setWidth 32 <<< 8) ||| s.keylen.setWidth 32 := by
  refine BitVec.eq_of_getLsbD_eq fun i hi => ?_
  change (0#23 ++ BitVec.ofBool s.ivp ++ 0#2 ++ s.keylen : BitVec (23 + 1 + 2 + 6)).getLsbD i = _
  simp only [BitVec.getLsbD_append, BitVec.getLsbD_or, BitVec.getLsbD_shiftLeft, BitVec.getLsbD_setWidth,
    BitVec.getLsbD_zero, BitVec.getLsbD_ofBool, Nat.sub_sub, hi, decide_true, Bool.true_and]
  rcases Nat.lt_or_ge i 6 with h6 | h6
  · simp [h6, Nat.lt_trans h6]
  · rw [BitVec.getLsbD_of_ge s.keylen i h6, Bool.or_false]
    rcases Nat.lt_or_ge i 8 with h8 | h8
    · interval_cases i <;> rfl
    · interval_cases i <;> simp

/-! ## A word stored in a byte array -/

section
variable {n k j : Nat} (x : Vector Byte n) (v : Word)

theorem setWordAt_getD_byte (hk : 4 * k + 4 ≤ n) (hj : j < 4) :
    (setWordAt x k v).getD (4 * k + j) 0 = byteOf v j := by
  have hdiv : (4 * k + j) / 4 = k := by omega
  have hmod : (4 * k + j) % 4 = j := by omega
  simp [setWordAt, Vector.getD, show 4 * k + j < n by omega, hdiv, hmod]

theorem setWordAt_getD_of_outside (hj : j < 4 * k ∨ 4 * k + 4 ≤ j) :
    (setWordAt x k v).getD j 0 = x.getD j 0 := by
  have hdiv : j / 4 ≠ k := by omega
  rcases Nat.lt_or_ge j n with hjn | hjn <;> simp [setWordAt, Vector.getD, hjn, hdiv]

/-- A word written is the word read back, big-endian both ways (spec/20_memory.md R76). -/
theorem wordAt_setWordAt (hk : 4 * k + 4 ≤ n) : wordAt (setWordAt x k v) k = v := by
  have byte (j : Nat) (hj : j < 4) := setWordAt_getD_byte x v hk hj
  have byte0 : (setWordAt x k v).getD (4 * k) 0 = byteOf v 0 := byte 0 (by decide)
  rw [wordAt, byte0, byte 1 (by decide), byte 2 (by decide), byte 3 (by decide), be32_byteOf]

end

/-! ## Reset -/

/-- A step that completes no command serves the host's next operation. -/
theorem step_of_not_completing {s : State} (h : s.seq ≠ .running 0) :
    step s = .next (serve { s with seq := seqServed s.seq }) := by
  unfold step
  split
  · contradiction
  · next n hs => rw [hs]; rfl
  · next hs => rw [hs, show seqServed .idle = s.seq from hs.symm]

theorem engineZero_resetFor (cfg : Config) : EngineZero (State.resetFor cfg) := by
  simp [EngineZero, SecretsZero, KeyZero, ResultZero, State.resetFor, State.inByte, State.outByte]

/-- The host's side is no part of the engine's state (log 7). -/
theorem engineZero_withHost {t : State} (p : List HostOp) (a : List Answer) (d : List Nat) :
    EngineZero { t with pending := p, answers := a, delays := d } ↔ EngineZero t := Iff.rfl

theorem statusWord_of_engineZero {t : State} (h : EngineZero t) : statusWord t = 0x00000000 := by
  obtain ⟨⟨-, -, -, -, hvalid, hvar, -, -⟩, -, -, -, -, hbusy, hdone, herr, -, -⟩ := h
  rw [statusWord, hvalid, hvar, hbusy, hdone, herr]
  rfl

/-! ## The obligations -/

/-- Settles O19, field by field from the layout of STATUS and PARAM. -/
theorem statusAndParamFields : Obligations.StatusAndParamFields := by
  intro s p
  constructor
  · obtain ⟨h3, h6, h16⟩ := statusWord_reserved s
    exact ⟨statusWord s, busRead_status (accessTarget_status s), statusWord_getLsbD s 0, statusWord_getLsbD s 1,
      statusWord_getLsbD s 2, h3, statusWord_schedVar s, h6, statusWord_errcode s, h16⟩
  · intro hidle
    have hread := busRead_of_idle (accessTarget_param s) hidle
    rw [targetValue, paramWord_eq] at hread
    exact ⟨busWrite_of_idle p (accessTarget_param s) hidle, hread⟩

/-- Settles O20: on an idle engine the write replaces the word at `4k` of KEY. -/
theorem keyWordWriteStoresFourBytes : Obligations.KeyWordWriteStoresFourBytes := by
  intro s k v hidle hk
  have hword : 4 * k + 4 ≤ 32 := by omega
  have hwrite := busWrite_of_idle v (accessTarget_key s hk) hidle
  rw [writeTarget] at hwrite
  refine ⟨_, hwrite, fun j hj => ?_, wordAt_setWordAt s.key v hword, fun j hj => ?_, rfl,
    busRead_of_idle (accessTarget_key s hk) hidle⟩
  · rw [setWordAt_getD_byte s.key v hword hj]
  · rw [setWordAt_getD_of_outside s.key v hj]

/-- Settles O10: serving reset leaves the engine's part of the reset state, whatever the engine was doing. -/
theorem resetZeroesEverything : Obligations.ResetZeroesEverything := by
  have hreset := engineZero_resetFor Config.default
  refine ⟨⟨hreset, statusWord_of_engineZero hreset⟩, fun s rest hpending hseq => ?_⟩
  have hzero : EngineZero { resetEngine { s with seq := seqServed s.seq } with pending := rest } :=
    (engineZero_withHost rest s.answers s.delays).mpr (engineZero_resetFor s.cfg)
  exact ⟨_, (step_of_not_completing hseq).trans (congrArg _ (serve_reset hpending)), hzero,
    statusWord_of_engineZero hzero⟩

end Sys2Proof.Machine

/-! PROOFS. Which accesses the bus refuses, and what a busy engine answers; then the obligations O15 and O16 about
spec/20_memory.md. -/

namespace Sys2Proof.Machine

/-! ## The address map, from outside -/

theorem ite_some_eq_none_iff {c : Prop} [Decidable c] {x : Target} {r : Option Target} :
    (if c then some x else r) = none ↔ ¬c ∧ r = none := by
  by_cases hc : c <;> simp [hc]

/-- The decoder of addresses has no target exactly outside the tables of spec/10_state.md R40 and spec/20_memory.md
R70. -/
theorem targetAt_eq_none_iff {maxLen a : Nat} (h4 : a % 4 = 0) : targetAt maxLen a = none ↔ ¬Mapped maxLen a := by
  simp only [targetAt, ite_some_eq_none_iff, and_true]
  unfold Mapped inBase outBase
  omega

/-- STATUS has one address. -/
theorem targetAt_status {maxLen a : Nat} (h : targetAt maxLen a = some .status) : a = 0x004 := by
  unfold targetAt at h
  replace h := of_ite_some h nofun
  by_contra ha
  rw [if_neg ha] at h
  iterate 12 replace h := of_ite_some h nofun
  nomatch h

section
variable {s : State} {addr : Addr} {width : Nat} {t : Target}

/-- The refused accesses, as spec/20_memory.md R75 lists them. -/
theorem accessTarget_eq_none_iff :
    accessTarget s addr width = none ↔ ¬(width = 4 ∧ addr.toNat % 4 = 0 ∧ Mapped s.maxLen addr.toNat) := by
  unfold accessTarget
  by_cases h : width = 4 ∧ addr.toNat % 4 = 0
  · obtain ⟨hw, h4⟩ := h
    simp [hw, h4, targetAt_eq_none_iff h4]
  · simp [h, ← and_assoc]

theorem exists_accessTarget (h4 : addr.toNat % 4 = 0) (hmapped : Mapped s.maxLen addr.toNat) :
    ∃ t, accessTarget s addr 4 = some t :=
  Option.ne_none_iff_exists'.mp fun hnone => accessTarget_eq_none_iff.mp hnone ⟨rfl, h4, hmapped⟩

theorem addr_of_accessTarget_status (h : accessTarget s addr width = some .status) : addr = 0x000004 := by
  unfold accessTarget at h
  split at h
  · exact BitVec.eq_of_toNat_eq (targetAt_status h)
  · nomatch h

/-! ## What a refused access and a busy engine answer -/

theorem busRead_eq_busError_iff : busRead s addr width = .busError ↔ accessTarget s addr width = none := by
  unfold busRead
  cases accessTarget s addr width with
  | none => simp
  | some t => dsimp only; split <;> simp

theorem writeAnswer_eq_busError_iff : writeAnswer s addr width = .busError ↔ accessTarget s addr width = none := by
  unfold writeAnswer
  cases accessTarget s addr width <;> simp

theorem writeAnswer_of_mapped (h : accessTarget s addr width = some t) : writeAnswer s addr width = .ok := by
  simp [writeAnswer, h]

theorem busWrite_of_refused (v : Word) (h : accessTarget s addr width = none) : busWrite s addr width v = s := by
  simp [busWrite, h]

theorem busRead_of_busy (h : accessTarget s addr width = some t) (hbusy : s.busy = true) (ht : t ≠ .status) :
    busRead s addr width = .data 0 := by
  simp [busRead, h, hbusy, ht]

/-- A busy engine ignores every write, mapped or not (spec/20_memory.md R85). -/
theorem busWrite_of_busy (addr : Addr) (width : Nat) (v : Word) (hbusy : s.busy = true) :
    busWrite s addr width v = s := by
  obtain hsame | ⟨t, -, hidle, -⟩ := busWrite_cases s addr width v
  · exact hsame
  · rw [hbusy] at hidle
    nomatch hidle

end

/-! ## The obligations -/

/-- Settles O15: both answers are BusError exactly where the access has no target, and there a write does nothing. -/
theorem busErrorExactlyOnRefusedAccess : Obligations.BusErrorExactlyOnRefusedAccess := fun _ _ _ v =>
  ⟨busRead_eq_busError_iff.trans accessTarget_eq_none_iff,
    writeAnswer_eq_busError_iff.trans accessTarget_eq_none_iff,
    fun h => busWrite_of_refused v (writeAnswer_eq_busError_iff.mp h)⟩

/-- Settles O16, access by access: STATUS is the one target a busy engine reads true. -/
theorem busyEngineAnswersOnlyStatus : Obligations.BusyEngineAnswersOnlyStatus := by
  intro s addr v hbusy
  refine ⟨busRead_status (accessTarget_status s), fun ⟨h4, hmapped, hne⟩ => ?_, fun ⟨h4, hmapped⟩ => ?_,
    fun hrefused => ?_, busWrite_of_busy addr 4 v hbusy⟩
  · obtain ⟨t, ht⟩ := exists_accessTarget h4 hmapped
    refine busRead_of_busy ht hbusy ?_
    rintro rfl
    exact hne (addr_of_accessTarget_status ht)
  · obtain ⟨t, ht⟩ := exists_accessTarget h4 hmapped
    exact writeAnswer_of_mapped ht
  · have hnone : accessTarget s addr 4 = none := accessTarget_eq_none_iff.mpr fun h => hrefused h.2
    exact ⟨busRead_eq_busError_iff.mpr hnone, writeAnswer_eq_busError_iff.mpr hnone⟩

end Sys2Proof.Machine

/-! PROOFS. Reduction modulo the AES polynomial is linear and agrees with repeated doubling, so the loop of the
multiplier adds up the reduced terms of the carry-less product; then the obligation O24 about spec/40_gf_tables.md. -/

namespace Sys2Proof.Machine

/-! ## Doubling, and the multiplier as a sum -/

/-- A byte times x, reduced: the doubling of one step of the multiplier (spec/40_gf_tables.md R132). -/
def gfDouble (a : Byte) : Byte := if a.getLsbD 7 then (a <<< 1) ^^^ 0x1B#8 else a <<< 1

theorem gfSteps_succ (n : Nat) (p a b : Byte) :
    gfSteps (n + 1) p a b = gfSteps n (if b.getLsbD 0 then p ^^^ a else p) (gfDouble a) (b >>> 1) := rfl

/-- n steps add `a` doubled i times to p for each set bit i of b below n. -/
theorem gfSteps_eq_foldl (n : Nat) (p a b : Byte) :
    gfSteps n p a b =
      (List.range n).foldl (fun q i => if b.getLsbD i then q ^^^ gfDouble^[i] a else q) p := by
  induction n generalizing p a b with
  | zero => rfl
  | succ n ih =>
    rw [gfSteps_succ, ih, List.range_succ_eq_map, List.foldl_cons, List.foldl_map]
    simp only [BitVec.getLsbD_ushiftRight, Nat.add_comm 1, Function.iterate_succ_apply, Function.iterate_zero_apply]

/-! ## Reduction is linear -/

/-- One step of `polyMod`: a set bit 8 + i is cancelled with `0x11B · x^i`. -/
def reduceBit (q : BitVec 16) (i : Nat) : BitVec 16 := if q.getLsbD (8 + i) then q ^^^ (0x11B#16 <<< i) else q

theorem polyMod_eq_foldl (p : BitVec 16) : polyMod p = ((List.range 8).reverse.foldl reduceBit p).setWidth 8 := rfl

theorem reduceBit_xor (p q : BitVec 16) (i : Nat) : reduceBit (p ^^^ q) i = reduceBit p i ^^^ reduceBit q i := by
  have moveRight (m : BitVec 16) : p ^^^ q ^^^ m = p ^^^ m ^^^ q := by ac_rfl
  have cancelTwice (m : BitVec 16) : p ^^^ q = (p ^^^ m) ^^^ (q ^^^ m) := by
    rw [← BitVec.xor_assoc, ← moveRight, BitVec.xor_assoc (p ^^^ q), BitVec.xor_self, BitVec.xor_zero]
  unfold reduceBit
  rw [BitVec.getLsbD_xor]
  cases p.getLsbD (8 + i) <;> cases q.getLsbD (8 + i)
  case false.false => rfl
  case false.true => exact BitVec.xor_assoc ..
  case true.false => exact moveRight _
  case true.true => exact cancelTwice _

theorem foldl_reduceBit_xor (l : List Nat) (p q : BitVec 16) :
    l.foldl reduceBit (p ^^^ q) = l.foldl reduceBit p ^^^ l.foldl reduceBit q := by
  induction l generalizing p q with
  | nil => rfl
  | cons i l ih => rw [List.foldl_cons, reduceBit_xor, ih]; rfl

theorem polyMod_xor (p q : BitVec 16) : polyMod (p ^^^ q) = polyMod p ^^^ polyMod q := by
  simp only [polyMod_eq_foldl, foldl_reduceBit_xor, BitVec.setWidth_xor]

theorem polyMod_setWidth (a : Byte) : polyMod (a.setWidth 16) = a := by
  have nothingToCancel (i : Nat) : reduceBit (a.setWidth 16) i = a.setWidth 16 := by
    simp [reduceBit]
  rw [polyMod_eq_foldl, List.foldl_fixed' nothingToCancel]
  simp

theorem polyMod_modulus_shiftLeft {i : Nat} (hi : i < 8) : polyMod (0x11B#16 <<< i) = 0#8 := by
  interval_cases i <;> rfl

/-! ## Reducing a shifted byte -/

/-- Doubling before reduction differs from the shift by the modulus or by nothing. -/
theorem shiftLeft_eq_gfDouble_xor (a : Byte) :
    a.setWidth 16 <<< 1 = (gfDouble a).setWidth 16 ^^^ (if a.getLsbD 7 then 0x11B#16 else 0#16) := by
  unfold gfDouble
  rw [BitVec.getLsbD_eq_getElem (show 7 < 8 by decide)]
  refine BitVec.eq_of_getLsbD_eq fun i hi => ?_
  cases h7 : a[7]
  · interval_cases i <;> simp [h7]
  · interval_cases i <;> simp [h7]

theorem polyMod_shiftLeft_succ (a : Byte) {i : Nat} (hi : i < 8) :
    polyMod (a.setWidth 16 <<< (i + 1)) = polyMod ((gfDouble a).setWidth 16 <<< i) := by
  have modulus : polyMod ((if a.getLsbD 7 then 0x11B#16 else 0#16) <<< i) = 0#8 := by
    split
    · exact polyMod_modulus_shiftLeft hi
    · rw [BitVec.zero_shiftLeft]; rfl
  rw [Nat.add_comm, BitVec.shiftLeft_add, shiftLeft_eq_gfDouble_xor, BitVec.shiftLeft_xor_distrib, polyMod_xor,
    modulus, BitVec.xor_zero]

theorem polyMod_shiftLeft (a : Byte) {i : Nat} (hi : i ≤ 8) :
    polyMod (a.setWidth 16 <<< i) = gfDouble^[i] a := by
  induction i generalizing a with
  | zero => rw [BitVec.shiftLeft_zero, polyMod_setWidth, Function.iterate_zero_apply]
  | succ i ih => rw [polyMod_shiftLeft_succ a hi, ih _ (by omega), Function.iterate_succ_apply]

/-- The multiplier's loop computes the polynomial product (spec/40_gf_tables.md R131, R132): both add `a · x^i`,
reduced, for each set bit i of b. -/
theorem gfMul_eq_polyMod (a b : Byte) : gfMul a b = polyMod (polyMul a b) := by
  rw [gfMul, gfSteps_eq_foldl, polyMul]
  refine List.foldl_hom polyMod (init := 0) fun p i => ?_
  split
  · next hbit => rw [polyMod_xor, polyMod_shiftLeft a (BitVec.lt_of_getLsbD hbit).le]
  · rfl

/-! ## GFMUL -/

theorem exec_gfmul (a b : Byte) (s : State) :
    exec (.gfmul a b) s = .next (completeFlags { s with gfr := gfMul a b } 0) := rfl

theorem endsWith_completeFlags_gfr (s : State) (g code : Byte) :
    EndsWith s (completeFlags { s with gfr := g } code) code := ⟨rfl, rfl, rfl, rfl, rfl⟩

theorem onlyGfr_completeFlags_gfr (s : State) (g code : Byte) : OnlyGfr s (completeFlags { s with gfr := g } code) :=
  ⟨⟨rfl, rfl⟩, ⟨rfl, rfl⟩, rfl, rfl, ⟨rfl, rfl, rfl⟩, ⟨fun _ => rfl, rfl⟩, ⟨fun _ => rfl, rfl⟩,
    ⟨rfl, rfl, rfl, rfl⟩⟩

/-! ## The obligation -/

/-- Settles O24: the loop is the polynomial product on all operands, and GFMUL writes GFR and the flags alone. -/
theorem gfmulGivesPolynomialProduct : Obligations.GfmulGivesPolynomialProduct := fun a b =>
  ⟨gfMul_eq_polyMod a b, fun s =>
    ⟨_, exec_gfmul a b s, rfl, endsWith_completeFlags_gfr s _ 0, onlyGfr_completeFlags_gfr s _ 0⟩⟩

end Sys2Proof.Machine

/-! PROOFS. What the expander appends keeps the words before it and obeys the recurrence, so the W file does; then the
obligation O28 about spec/41_key_schedule.md. -/

namespace Sys2Proof.Machine

/-! ## The expander's words -/

/-- The word an expansion of `nk`-word keys appends to the words so far (spec/41_key_schedule.md R151). -/
def nextWord (nk : Nat) (ws : List Word) : Word :=
  ws.getD (ws.length - nk) 0 ^^^ scheduleTerm nk ws.length (ws.getD (ws.length - 1) 0)

theorem expandFrom_succ (nk n : Nat) (ws : List Word) :
    expandFrom nk (n + 1) ws = expandFrom nk n (ws ++ [nextWord nk ws]) := rfl

theorem expandFrom_length (nk n : Nat) (ws : List Word) : (expandFrom nk n ws).length = ws.length + n := by
  induction n generalizing ws with
  | zero => rfl
  | succ n ih => rw [expandFrom_succ, ih, List.length_append, List.length_singleton, Nat.add_right_comm, Nat.add_assoc]

/-- Words once produced stay: the expander only appends. -/
theorem expandFrom_getD_of_lt (nk n : Nat) {ws : List Word} {i : Nat} (hi : i < ws.length) :
    (expandFrom nk n ws).getD i 0 = ws.getD i 0 := by
  induction n generalizing ws with
  | zero => rfl
  | succ n ih =>
    have hlonger : i < (ws ++ [nextWord nk ws]).length := by rw [List.length_append]; omega
    rw [expandFrom_succ, ih hlonger, List.getD_append _ _ _ _ hi]

/-- Every word appended obeys the recurrence over the finished sequence. -/
theorem expandFrom_recurrence {nk n i : Nat} {ws : List Word} (hnk : 0 < nk) (hws : nk ≤ ws.length)
    (hi : ws.length ≤ i) (hin : i < ws.length + n) :
    (expandFrom nk n ws).getD i 0 =
      (expandFrom nk n ws).getD (i - nk) 0 ^^^ scheduleTerm nk i ((expandFrom nk n ws).getD (i - 1) 0) := by
  induction n generalizing ws with
  | zero => omega
  | succ n ih =>
    have hlength : (ws ++ [nextWord nk ws]).length = ws.length + 1 := List.length_append
    rcases Nat.eq_or_lt_of_le hi with rfl | hlater
    · rw [expandFrom_getD_of_lt nk (n + 1) (show ws.length - nk < ws.length by omega),
        expandFrom_getD_of_lt nk (n + 1) (show ws.length - 1 < ws.length by omega), expandFrom_succ,
        expandFrom_getD_of_lt nk n (show ws.length < (ws ++ [nextWord nk ws]).length by omega),
        List.getD_append_right _ _ _ _ le_rfl, Nat.sub_self]
      rfl
    · rw [expandFrom_succ]
      exact ih (by omega) (by omega) (by omega)

theorem keyWords_getD (k : List Byte) {nk i : Nat} (hi : i < nk) :
    (keyWords k nk).getD i 0 =
      be32 (k.getD (4 * i) 0) (k.getD (4 * i + 1) 0) (k.getD (4 * i + 2) 0) (k.getD (4 * i + 3) 0) := by
  simp [keyWords, hi]

@[simp] theorem keyWords_length (k : List Byte) (nk : Nat) : (keyWords k nk).length = nk := by simp [keyWords]

/-! ## The key and the sizes of a variant -/

/-- Nk words begin the sequence, NW is its length, and W holds 60 (spec/00_scope.md R5, spec/10_state.md R27). -/
theorem variant_sizes (x : Variant) : 0 < nk x ∧ nk x ≤ nw x ∧ nw x ≤ 60 := by
  cases x <;> decide

theorem keyBytes_getD (s : State) {x : Variant} {j : Nat} (hj : j < keyLen x) :
    (s.keyBytes x).getD j 0 = s.key.getD j 0 := by
  simp [State.keyBytes, Vector.getD, hj]

theorem keyWords_keyBytes_getD (s : State) {x : Variant} {i : Nat} (hi : i < nk x) :
    (keyWords (s.keyBytes x) (nk x)).getD i 0 = wordAt s.key i := by
  have byte (j : Nat) (hj : j < 4) : (s.keyBytes x).getD (4 * i + j) 0 = s.key.getD (4 * i + j) 0 :=
    keyBytes_getD s (by unfold keyLen; omega)
  have byte0 : (s.keyBytes x).getD (4 * i) 0 = s.key.getD (4 * i) 0 := byte 0 (by decide)
  rw [keyWords_getD _ hi, wordAt, byte0, byte 1 (by decide), byte 2 (by decide), byte 3 (by decide)]

/-! ## The W file -/

section
variable (x : Variant) (k : List Byte) {i : Nat}

theorem expand_length : (expand k (nk x) (nr x)).length = nw x := by
  have := variant_sizes x
  rw [expand, expandFrom_length, keyWords_length, ← nw]
  omega

theorem schedule_getD (hi : i < 60) : (schedule x k).getD i 0 = (expand k (nk x) (nr x)).getD i 0 := by
  simp [schedule, Vector.getD, hi]

theorem schedule_getD_key (hi : i < nk x) : (schedule x k).getD i 0 = (keyWords k (nk x)).getD i 0 := by
  have := variant_sizes x
  rw [schedule_getD x k (by omega), expand, expandFrom_getD_of_lt _ _ (by rwa [keyWords_length])]

theorem schedule_getD_tail (hi : nw x ≤ i) (h60 : i < 60) : (schedule x k).getD i 0 = 0 := by
  rw [schedule_getD x k h60, List.getD_eq_default _ _ (by rwa [expand_length])]

theorem schedule_recurrence (hnk : nk x ≤ i) (hnw : i < nw x) :
    (schedule x k).getD i 0 =
      (schedule x k).getD (i - nk x) 0 ^^^ scheduleTerm (nk x) i ((schedule x k).getD (i - 1) 0) := by
  obtain ⟨hpos, hle, h60⟩ := variant_sizes x
  rw [schedule_getD x k (by omega), schedule_getD x k (by omega), schedule_getD x k (by omega)]
  refine expandFrom_recurrence hpos (keyWords_length k _).ge (by rwa [keyWords_length]) ?_
  rw [keyWords_length, ← nw]
  omega

end

/-! ## EXPAND -/

/-- EXPAND completes when KEYLEN fits the variant (spec/41_key_schedule.md R156). -/
theorem exec_expandInstr_of_keyLen {x : Variant} {s : State} (h : s.keylen.toNat = keyLen x) :
    exec (expandInstr x) s =
      .next (completeFlags (s.setSchedule x (schedule x (s.keyBytes x))).consumeKey 0) := by
  rw [exec_expandInstr]
  obtain ⟨hne, -⟩ | ⟨-, hnext⟩ := expandCommand_cases x s
  · exact absurd h hne
  · exact hnext

theorem endsWith_completeFlags_setSchedule (s : State) (x : Variant) (w : Schedule) (code : Byte) :
    EndsWith s (completeFlags (s.setSchedule x w).consumeKey code) code := ⟨rfl, rfl, rfl, rfl, rfl⟩

theorem keyZero_completeFlags_consumeKey (s : State) (code : Byte) : KeyZero (completeFlags s.consumeKey code) :=
  ⟨fun j => by simp, rfl⟩

theorem onlyKeyAndSchedule_completeFlags_setSchedule (s : State) (x : Variant) (w : Schedule) (code : Byte) :
    OnlyKeyAndSchedule s (completeFlags (s.setSchedule x w).consumeKey code) :=
  ⟨⟨rfl, rfl⟩, rfl, rfl, rfl, ⟨fun _ => rfl, rfl⟩, ⟨fun _ => rfl, rfl⟩, ⟨rfl, rfl, rfl, rfl⟩⟩

/-! ## The obligation -/

/-- Settles O28: EXPAND leaves `schedule` of the key in W, which obeys the recurrence word by word. -/
theorem expandFollowsRecurrence : Obligations.ExpandFollowsRecurrence := by
  intro x s hkey
  exact ⟨_, exec_expandInstr_of_keyLen hkey, endsWith_completeFlags_setSchedule s x _ 0,
    fun i hi => (schedule_getD_key x _ hi).trans (keyWords_keyBytes_getD s hi),
    fun i hnk hnw => schedule_recurrence x _ hnk hnw, fun i hnw h60 => schedule_getD_tail x _ hnw h60,
    rfl, rfl, keyZero_completeFlags_consumeKey _ 0, onlyKeyAndSchedule_completeFlags_setSchedule s x _ 0⟩

end Sys2Proof.Machine

/-! PROOFS. The entries of the round transformations, and the commands that complete by writing S alone; then the
obligations O34, O30 and O31 about spec/42_round_pipeline.md. -/

namespace Sys2Proof.Machine

/-! ## Entries of the transformations -/

section
variable (s : Mat) (r c : Fin 4)

theorem subBytes_getElem : (subBytes s)[r][c] = sbox s[r][c] := by
  simp [subBytes]

theorem invSubBytes_getElem : (invSubBytes s)[r][c] = invSbox s[r][c] := by
  simp [invSubBytes]

/-- Addition in Fin 4 is the `mod 4` of spec/42_round_pipeline.md R174. -/
theorem shiftRows_getElem : (shiftRows s)[r][c] = s[r][c + r] := by
  simp [shiftRows, Fin.val_add]

/-- Subtraction in Fin 4 is the `mod 4` of spec/42_round_pipeline.md R176. -/
theorem invShiftRows_getElem : (invShiftRows s)[r][c] = s[r][c - r] := by
  have index : (c - r).val = (c.val + 4 - r.val) % 4 := by
    rw [Fin.val_sub]
    omega
  simp [invShiftRows, index]

end

/-! ## Adding a round key -/

section
variable (s : Mat) (w : Schedule) (r : Nat)

theorem addRoundKey_getElem (k c : Fin 4) :
    (addRoundKey s w r)[k][c] = s[k][c] ^^^ byteOf (w.getD (4 * r + c.val) 0) k.val := by
  simp [addRoundKey]

/-- On column words the whole round-key word is added (spec/10_state.md R50). -/
theorem columnWord_addRoundKey (c : Fin 4) :
    columnWord (addRoundKey s w r) c = columnWord s c ^^^ w.getD (4 * r + c.val) 0 := by
  rw [← be32_byteOf (w.getD (4 * r + c.val) 0)]
  simp [columnWord, addRoundKey, be32_xor]

theorem addRoundKey_addRoundKey : addRoundKey (addRoundKey s w r) w r = s :=
  Mat.ext_entries fun k c => by
    rw [addRoundKey_getElem, addRoundKey_getElem, BitVec.xor_assoc, BitVec.xor_self, BitVec.xor_zero]

end

/-! ## Commands that write S -/

section
variable (s : State) (m : Mat) (code : Byte)

theorem endsWith_completeFlags_setSt : EndsWith s (completeFlags (s.setSt m) code) code := ⟨rfl, rfl, rfl, rfl, rfl⟩

theorem onlySt_completeFlags_setSt : OnlySt s (completeFlags (s.setSt m) code) :=
  ⟨⟨rfl, rfl⟩, ⟨rfl, rfl⟩, rfl, ⟨rfl, rfl, rfl⟩, rfl, ⟨fun _ => rfl, rfl⟩, ⟨fun _ => rfl, rfl⟩,
    ⟨rfl, rfl, rfl, rfl⟩⟩

end

theorem exec_subBytes (s : State) : exec .subBytes s = .next (completeFlags (s.setSt (subBytes s.st)) 0) := rfl

theorem exec_invSubBytes (s : State) :
    exec .invSubBytes s = .next (completeFlags (s.setSt (invSubBytes s.st)) 0) := rfl

theorem exec_shiftRows (s : State) : exec .shiftRows s = .next (completeFlags (s.setSt (shiftRows s.st)) 0) := rfl

theorem exec_invShiftRows (s : State) :
    exec .invShiftRows s = .next (completeFlags (s.setSt (invShiftRows s.st)) 0) := rfl

/-- ADDROUNDKEY completes under a schedule that has round r (spec/42_round_pipeline.md R184). -/
theorem exec_addRoundKey_of_le {r : Nat} {s : State} (hvalid : s.schedValid = true)
    (hr : r ≤ nrOfCode s.schedVar) :
    exec (.addRoundKey r) s = .next (completeFlags (s.setSt (addRoundKey s.st s.w r)) 0) := by
  obtain ⟨hinvalid, -⟩ | ⟨-, hlt, -⟩ | ⟨-, -, hnext⟩ := execAddRoundKey_cases r s
  · rw [hvalid] at hinvalid
    nomatch hinvalid
  · exact absurd hr (Nat.not_le.mpr hlt)
  · exact hnext

/-- A run whose first command completes is the run of the others on the state it left. -/
theorem execAll_cons_of_next {i : Instr} {s t : State} (h : exec i s = .next t) (is : List Instr) :
    execAll (i :: is) s = execAll is t := by
  rw [execAll, h]

/-! ## The obligations -/

/-- Settles O34: both runs of the command add the same round key, so the second restores S. -/
theorem addRoundKeyCommand : Obligations.AddRoundKeyCommand := by
  intro r s hvalid hr
  have first := exec_addRoundKey_of_le hvalid hr
  have second := exec_addRoundKey_of_le (s := completeFlags (s.setSt (addRoundKey s.st s.w r)) 0) hvalid hr
  exact ⟨_, first, endsWith_completeFlags_setSt s _ 0, onlySt_completeFlags_setSt s _ 0,
    addRoundKey_getElem s.st s.w r, columnWord_addRoundKey s.st s.w r,
    _, (execAll_cons_of_next first _).trans (execAll_cons_of_next second []), addRoundKey_addRoundKey s.st s.w r⟩

/-- Settles O30: each table is applied entry by entry, and S alone is written. -/
theorem subBytesCommands : Obligations.SubBytesCommands := fun s =>
  ⟨⟨_, exec_subBytes s, subBytes_getElem s.st, endsWith_completeFlags_setSt s _ 0, onlySt_completeFlags_setSt s _ 0⟩,
    _, exec_invSubBytes s, invSubBytes_getElem s.st, endsWith_completeFlags_setSt s _ 0,
    onlySt_completeFlags_setSt s _ 0⟩

/-- Settles O31: the entries move within their row, and S alone is written. -/
theorem shiftRowsCommands : Obligations.ShiftRowsCommands := fun s =>
  ⟨⟨_, exec_shiftRows s, shiftRows_getElem s.st, endsWith_completeFlags_setSt s _ 0,
      onlySt_completeFlags_setSt s _ 0⟩,
    _, exec_invShiftRows s, invShiftRows_getElem s.st, endsWith_completeFlags_setSt s _ 0,
    onlySt_completeFlags_setSt s _ 0⟩

end Sys2Proof.Machine

/-! PROOFS. `Unpad` inverts the appending of p bytes of value p, and UNPAD cuts the result back to what it returns; then
the obligations O38, O39 and O41 about spec/43_padding_segmentation.md. -/

namespace Sys2Proof.Machine

/-! ## Pad and Unpad on byte sequences -/

theorem pad_length (m : List Byte) : (pad m).length = 16 * (m.length / 16 + 1) := by
  rw [pad, padBytes, List.length_append, List.length_replicate, add_padCount]

theorem unpad_append_replicate (r : List Byte) {p : Nat} (hpos : 1 ≤ p) (hle : p ≤ 16) :
    unpad (r ++ List.replicate p (BitVec.ofNat 8 p)) = some r := by
  have hlast : (r ++ List.replicate p (BitVec.ofNat 8 p)).getLast? = some (BitVec.ofNat 8 p) := by
    rw [List.getLast?_append, List.getLast?_replicate, if_neg (by omega), Option.some_or]
  have hcount : (BitVec.ofNat 8 p).toNat = p := Nat.mod_eq_of_lt (by omega)
  simp [unpad, hlast, hcount, Nat.ne_of_gt hpos, hle]

/-- What `Unpad` accepts ends in as many bytes of the last byte's value as that value says. -/
theorem eq_append_replicate_of_unpad {b r : List Byte} (h : unpad b = some r) :
    ∃ p, 1 ≤ p ∧ p ≤ 16 ∧ b = r ++ List.replicate p (BitVec.ofNat 8 p) := by
  unfold unpad at h
  split at h
  · nomatch h
  next q _ =>
    split_ifs at h with hbad hall
    obtain rfl := Option.some.inj h
    refine ⟨q.toNat, by omega, by omega, ?_⟩
    have htail : b.drop (b.length - q.toNat) = List.replicate q.toNat q :=
      List.eq_replicate_iff.mpr ⟨by rw [List.length_drop]; omega, by simpa using hall⟩
    rw [BitVec.ofNat_toNat, BitVec.setWidth_eq, ← htail, List.take_append_drop]

theorem unpad_eq_some_iff {b r : List Byte} :
    unpad b = some r ↔ ∃ p, 1 ≤ p ∧ p ≤ 16 ∧ b = r ++ List.replicate p (BitVec.ofNat 8 p) :=
  ⟨eq_append_replicate_of_unpad, fun ⟨_, hpos, hle, hb⟩ => hb ▸ unpad_append_replicate r hpos hle⟩

/-- `Unpad` fails on every sequence that is no padded one. -/
theorem unpad_eq_none {b : List Byte}
    (h : ∀ (r : List Byte) (p : Nat), 1 ≤ p → p ≤ 16 → b ≠ r ++ List.replicate p (BitVec.ofNat 8 p)) :
    unpad b = none := by
  refine Option.eq_none_iff_forall_ne_some.mpr fun r hr => ?_
  obtain ⟨p, hpos, hle, hb⟩ := unpad_eq_some_iff.mp hr
  exact h r p hpos hle hb

/-! ## Runs of bytes in a buffer -/

theorem Memory.readBytes_take (m : Memory) (a : Nat) {k n : Nat} (h : k ≤ n) :
    (Memory.readBytes m a n).take k = Memory.readBytes m a k := by
  rw [Memory.readBytes, ← List.map_take, List.take_range, Nat.min_eq_left h, Memory.readBytes]

/-- A write leaves the bytes below it as they are. -/
theorem Memory.readBytes_writeBytes_of_le (m : Memory) (bs : List Byte) {n a : Nat} (h : n ≤ a) :
    Memory.readBytes (Memory.writeBytes m a bs) 0 n = Memory.readBytes m 0 n :=
  List.map_congr_left fun _ hj =>
    Memory.read_writeBytes_of_outside (.inl (by have := List.mem_range.mp hj; omega))

/-! ## The result cut back to its first n bytes -/

/-- The result without its bytes from n on, which are zeroed: what UNPAD leaves when it succeeds
(spec/43_padding_segmentation.md R207). -/
def State.cutResult (s : State) (n : Nat) : State :=
  { s with
    outBuf := Memory.writeBytes s.outBuf n (List.replicate (s.outlen.toNat - n) 0),
    outlen := BitVec.ofNat 32 n }

section
variable {s : State} {n : Nat}

theorem cutResult_outlen_toNat (h : n ≤ s.outlen.toNat) : (s.cutResult n).outlen.toNat = n :=
  Nat.mod_eq_of_lt (Nat.lt_of_le_of_lt h s.outlen.isLt)

theorem cutResult_result (h : n ≤ s.outlen.toNat) : (s.cutResult n).result = s.result.take n := by
  rw [State.result, cutResult_outlen_toNat h, State.result, Memory.readBytes_take _ _ h]
  exact Memory.readBytes_writeBytes_of_le _ _ (Nat.le_refl n)

theorem cutResult_outByte_of_cut (hwf : Memory.wf s.outBuf = true) {j : Nat} (hn : n ≤ j) (hj : j < s.outlen.toNat) :
    (s.cutResult n).outByte j = 0 := by
  rw [State.outByte, State.cutResult, Memory.read_writeBytes n j _ hwf, List.length_replicate, if_pos (by omega),
    List.getD_replicate _ (by omega)]

theorem cutResult_outByte_of_kept (h : n ≤ s.outlen.toNat) {j : Nat} (hj : j < n ∨ s.outlen.toNat ≤ j) :
    (s.cutResult n).outByte j = s.outByte j :=
  Memory.read_writeBytes_of_outside (by rw [List.length_replicate]; omega)

end

/-! ## UNPAD -/

theorem exec_unpad_of_some {s : State} {r : List Byte} (h : unpad s.result = some r) :
    exec .unpad s = .next (completeFlags (s.cutResult r.length) 0) := by
  obtain ⟨hnone, -⟩ | ⟨r', hsome, hnext⟩ := execUnpad_cases s
  · nomatch hnone.symm.trans h
  · obtain rfl := Option.some.inj (hsome.symm.trans h)
    exact hnext

theorem exec_unpad_of_none {s : State} (h : unpad s.result = none) :
    exec .unpad s = .next (completeFlags s.noResult (errorCode .invalidPadding)) := by
  obtain ⟨-, hnext⟩ | ⟨_, hsome, -⟩ := execUnpad_cases s
  · exact hnext
  · nomatch hsome.symm.trans h

section
variable (s : State) (m : Memory) (n : Word) (code : Byte)

theorem endsWith_completeFlags_out :
    EndsWith s (completeFlags { s with outBuf := m, outlen := n } code) code := ⟨rfl, rfl, rfl, rfl, rfl⟩

theorem onlyOut_completeFlags_out : OnlyOut s (completeFlags { s with outBuf := m, outlen := n } code) :=
  ⟨⟨rfl, rfl⟩, ⟨rfl, rfl⟩, rfl, rfl, ⟨rfl, rfl, rfl⟩, rfl, ⟨fun _ => rfl, rfl⟩, ⟨rfl, rfl, rfl, rfl⟩⟩

end

/-! ## The obligations -/

/-- Settles O39: the last byte of a padded sequence is its count, and `Unpad` compares that many bytes. -/
theorem unpadAcceptsExactlyPaddedBuffers : Obligations.UnpadAcceptsExactlyPaddedBuffers := fun _ _ =>
  unpad_eq_some_iff

/-- Settles O41: `Unpad` decides the ending, and OUT, OUTLEN and the flags alone are written. -/
theorem unpadCommand : Obligations.UnpadCommand := by
  refine ⟨by decide, fun s hwf => ⟨fun r p hpos hle hpadded => ?_, fun hnot => ?_⟩⟩
  · have hlen : r.length = s.outlen.toNat - p := by
      have := congrArg List.length hpadded
      rw [State.result, Memory.readBytes_length, List.length_append, List.length_replicate] at this
      omega
    have hcut : s.outlen.toNat - p ≤ s.outlen.toNat := Nat.sub_le _ _
    have hresult : s.result.take (s.outlen.toNat - p) = r := by rw [hpadded, ← hlen, List.take_left]
    have hnext := exec_unpad_of_some (unpad_eq_some_iff.mpr ⟨p, hpos, hle, hpadded⟩)
    rw [hlen] at hnext
    exact ⟨_, hnext, endsWith_completeFlags_out s _ _ 0, onlyOut_completeFlags_out s _ _ 0,
      cutResult_outlen_toNat hcut, (cutResult_result hcut).trans hresult,
      fun _ => cutResult_outByte_of_cut hwf, fun _ => cutResult_outByte_of_kept hcut⟩
  · exact ⟨_, exec_unpad_of_none (unpad_eq_none hnot), endsWith_completeFlags_out s _ _ _,
      onlyOut_completeFlags_out s _ _ _, fun _ => rfl, rfl⟩

/-- Settles O38: p is the model's `padCount` of the length. -/
theorem padAppendsCount : Obligations.PadAppendsCount := by
  intro m
  obtain ⟨hpos, hle⟩ := padCount_range m.length
  have hfull : m.length % 16 = 0 → padCount m.length = 16 := fun h => by rw [padCount, h]
  exact ⟨padCount m.length, hpos, hle, rfl, hfull, pad_length m⟩

end Sys2Proof.Machine

/-! PROOFS. However a whole-message command ends, it ends with the secrets wiped; what the chaining commands write; then
the obligations O53, O45, O46 and O47 about spec/44_mode_controller.md. -/

namespace Sys2Proof.Machine

/-! ## How a whole-message command ends -/

/-- ENCRYPT and DECRYPT, with a result or with an error, write OUT and OUTLEN, wipe the secrets and set the flags
(spec/44_mode_controller.md R231 to R233; spec/60_exceptions.md R271). -/
theorem exec_message_wipes {x : Variant} {y : Mode} {i : Instr} (hi : i ∈ [encryptInstr x y, decryptInstr x y])
    (s : State) :
    ∃ m n code, exec i s = .next (completeFlags ({ s with outBuf := m, outlen := n } : State).wipeSecrets code) := by
  obtain rfl | rfl := List.mem_pair.mp hi
  · rw [exec_encryptInstr]
    obtain ⟨_, hfail, -⟩ | ⟨-, -, -, hend⟩ := encryptCommand_cases x y s
    · exact ⟨_, _, _, hfail⟩
    · exact ⟨_, _, _, hend⟩
  · rw [exec_decryptInstr]
    obtain ⟨_, hfail, -⟩ | ⟨_, -, -, -, -, -, hend⟩ := decryptCommand_cases x y s
    · exact ⟨_, _, _, hfail⟩
    · exact ⟨_, _, _, hend⟩

theorem secretsZero_completeFlags_wipeSecrets (s : State) (code : Byte) :
    SecretsZero (completeFlags s.wipeSecrets code) := by
  simp [SecretsZero, KeyZero]

theorem messageFrame_completeFlags_wipeSecrets (s : State) (m : Memory) (n : Word) (code : Byte) :
    MessageFrame s (completeFlags ({ s with outBuf := m, outlen := n } : State).wipeSecrets code) :=
  ⟨rfl, ⟨fun _ => rfl, rfl⟩, ⟨rfl, rfl, rfl, rfl⟩⟩

/-! ## Commands that write CHAIN, or the flags alone -/

section
variable (s : State) (b : Block) (code : Byte)

theorem endsWith_completeFlags : EndsWith s (completeFlags s code) code := ⟨rfl, rfl, rfl, rfl, rfl⟩

theorem onlyFlags_completeFlags : OnlyFlags s (completeFlags s code) := ⟨onlySt_completeFlags_setSt s s.st code, rfl⟩

theorem endsWith_completeFlags_setChain : EndsWith s (completeFlags (s.setChain b) code) code :=
  ⟨rfl, rfl, rfl, rfl, rfl⟩

theorem onlyChain_completeFlags_setChain : OnlyChain s (completeFlags (s.setChain b) code) :=
  ⟨⟨rfl, rfl⟩, ⟨rfl, rfl⟩, rfl, ⟨rfl, rfl, rfl⟩, rfl, ⟨fun _ => rfl, rfl⟩, ⟨fun _ => rfl, rfl⟩,
    ⟨rfl, rfl, rfl, rfl⟩⟩

end

/-- CHIV copies an IV that is present (spec/44_mode_controller.md R220). -/
theorem exec_chIv_of_present {s : State} (h : s.ivp = true) :
    exec .chIv s = .next (completeFlags (s.setChain s.iv) 0) := by
  obtain ⟨habsent, -⟩ | ⟨-, hnext⟩ := execChIv_cases s
  · nomatch h.symm.trans habsent
  · exact hnext

theorem exec_chIv_of_absent {s : State} (h : s.ivp = false) :
    exec .chIv s = .next (completeFlags s (errorCode .missingIv)) := by
  obtain ⟨-, hnext⟩ | ⟨hpresent, -⟩ := execChIv_cases s
  · exact hnext
  · nomatch h.symm.trans hpresent

theorem exec_chS (s : State) : exec .chS s = .next (completeFlags (s.setChain (toLinear s.st)) 0) := rfl

/-! ## A state as a linear block -/

theorem toLinear_getD_entry (m : Mat) (r c : Fin 4) : (toLinear m).getD (r.val + 4 * c.val) 0 = m[r][c] := by
  have hentry : r.val + 4 * c.val < 16 := by omega
  have hrow : (r.val + 4 * c.val) % 4 = r.val := by omega
  have hcolumn : (r.val + 4 * c.val) / 4 = c.val := by omega
  simp [Vector.getD, hentry, hrow, hcolumn]

/-- Word k of a block is built from the entries of column k (spec/10_state.md R50). -/
theorem wordAt_block (l : Block) (k : Fin 4) : wordAt l k.val = columnWord (toState l) k := by
  simp [wordAt, columnWord, Vector.getD, Nat.add_comm (4 * k.val), show 3 + 4 * k.val < 16 by omega,
    show 2 + 4 * k.val < 16 by omega, show 1 + 4 * k.val < 16 by omega, show 4 * k.val < 16 by omega]

/-- The words CHk and Sk of one block are the same (spec/44_mode_controller.md R221). -/
theorem wordAt_toLinear (m : Mat) (k : Fin 4) : wordAt (toLinear m) k.val = columnWord m k := by
  rw [wordAt_block, toState_toLinear]

/-! ## XCH -/

/-- A state with a linear block added entry by entry, what XCH leaves in S (spec/44_mode_controller.md R223). -/
def Mat.addBlock (m : Mat) (l : Block) : Mat := Mat.ofFn fun r c => m[r][c] ^^^ l[r.val + 4 * c.val]

theorem exec_xch (s : State) : exec .xch s = .next (completeFlags (s.setSt (s.st.addBlock s.chain)) 0) := rfl

section
variable (m : Mat) (l : Block)

theorem addBlock_getElem (r c : Fin 4) : (m.addBlock l)[r][c] = m[r][c] ^^^ l.getD (r.val + 4 * c.val) 0 := by
  have hentry : r.val + 4 * c.val < 16 := by omega
  simp [Mat.addBlock, Vector.getD, hentry]

/-- On column words CHk is added to Sk (spec/44_mode_controller.md R223). -/
theorem columnWord_addBlock (k : Fin 4) : columnWord (m.addBlock l) k = columnWord m k ^^^ wordAt l k.val := by
  rw [wordAt_block, columnWord, columnWord, columnWord, be32_xor]
  simp [Mat.addBlock]

theorem addBlock_addBlock : (m.addBlock l).addBlock l = m :=
  Mat.ext_entries fun r c => by
    rw [addBlock_getElem, addBlock_getElem, BitVec.xor_assoc, BitVec.xor_self, BitVec.xor_zero]

end

/-! ## The obligations -/

/-- Settles O53: every end of a whole-message command wipes the secrets, and the result it writes is no part of the
frame. -/
theorem messageCommandsLeaveNoSecret : Obligations.MessageCommandsLeaveNoSecret := by
  intro x y s i hi
  obtain ⟨m, n, code, hnext⟩ := exec_message_wipes hi s
  exact ⟨_, hnext, secretsZero_completeFlags_wipeSecrets _ code, messageFrame_completeFlags_wipeSecrets s m n code⟩

/-- Settles O45: IVP decides between the copy and MissingIV. -/
theorem chainFromIv : Obligations.ChainFromIv :=
  ⟨by decide, fun s =>
    ⟨fun hpresent => ⟨_, exec_chIv_of_present hpresent, endsWith_completeFlags_setChain s _ 0,
        onlyChain_completeFlags_setChain s _ 0, fun _ => rfl⟩,
      fun habsent => ⟨_, exec_chIv_of_absent habsent, endsWith_completeFlags s _, onlyFlags_completeFlags s _⟩⟩⟩

/-- Settles O46: CHAIN holds the state as a linear block, entry by entry and word by word. -/
theorem chainFromState : Obligations.ChainFromState := by
  refine ⟨by decide, fun s => ⟨_, exec_chS s, endsWith_completeFlags_setChain s _ 0,
    onlyChain_completeFlags_setChain s _ 0, toLinear_getD_entry s.st, fun k => ?_⟩⟩
  rw [completeFlags_chain, setChain_chain, completeFlags_st, setChain_st, wordAt_toLinear]

/-- Settles O47: both runs of the command add the same block, so the second restores S. -/
theorem xorChainIntoState : Obligations.XorChainIntoState := by
  refine ⟨by decide, fun s => ?_⟩
  have first := exec_xch s
  have second := exec_xch (completeFlags (s.setSt (s.st.addBlock s.chain)) 0)
  exact ⟨⟨_, first, endsWith_completeFlags_setSt s _ 0, onlySt_completeFlags_setSt s _ 0,
      addBlock_getElem s.st s.chain, columnWord_addBlock s.st s.chain⟩,
    _, (execAll_cons_of_next first _).trans (execAll_cons_of_next second []), addBlock_addBlock s.st s.chain⟩

end Sys2Proof.Machine

/-! PROOFS. CLEAR leaves the reset state but for DONE and LASTCMD, so it is zero where the reset state is; then the
obligation O48 about spec/45_control.md. -/

namespace Sys2Proof.Machine

/-! ## What the control commands leave -/

theorem encode_clear : encode .clear = 0x00000001 := by decide

section
variable (s : State)

theorem exec_nop : exec .nop s = .next (completeFlags s 0) := rfl

theorem exec_clear : exec .clear s = .next (completeFlags s.cleared 0) := rfl

/-- "Returns the engine to its reset state, except that a command has completed" (spec/45_control.md R252). -/
theorem completeFlags_cleared :
    completeFlags s.cleared 0 = { resetEngine s with done := true, lastcmd := s.lastcmd } := rfl

theorem endsWith_completeFlags_cleared (code : Byte) : EndsWith s (completeFlags s.cleared code) code :=
  ⟨rfl, rfl, rfl, rfl, rfl⟩

theorem sameHost_completeFlags_cleared (code : Byte) : SameHost s (completeFlags s.cleared code) :=
  ⟨rfl, rfl, rfl, rfl⟩

/-- STATUS shows DONE alone (spec/10_state.md R42). -/
theorem statusWord_completeFlags_cleared : statusWord (completeFlags s.cleared 0) = 0x00000002 := by
  rw [statusWord, completeFlags_errcode, completeFlags_schedVar, completeFlags_schedValid, completeFlags_done,
    completeFlags_busy, cleared_schedVar, cleared_schedValid]
  rfl

end

/-! ## The obligation -/

/-- Settles O48: NOP sets the flags alone; what CLEAR leaves is the reset state outside DONE and LASTCMD, and the reset
state is zero. -/
theorem controlCommands : Obligations.ControlCommands := by
  refine ⟨by decide, encode_clear, fun s =>
    ⟨⟨_, exec_nop s, endsWith_completeFlags s 0, onlyFlags_completeFlags s 0⟩, ?_⟩⟩
  obtain ⟨hsecrets, hgfr, hin, hlen, hresult, -⟩ := engineZero_resetFor s.cfg
  refine ⟨_, exec_clear s, endsWith_completeFlags_cleared s 0, hsecrets, hgfr, hin, hlen, hresult,
    sameHost_completeFlags_cleared s 0, statusWord_completeFlags_cleared s, completeFlags_cleared s,
    fun hlaunched => ?_⟩
  rw [completeFlags_cleared, hlaunched, encode_clear]

end Sys2Proof.Machine

/-! PROOFS. The launch of a word the decoder refuses, which ends in the launch itself; then the obligation O7 about
spec/60_exceptions.md. -/

namespace Sys2Proof.Machine

/-! ## An illegal word -/

theorem accessTarget_cmd (s : State) : accessTarget s 0x000000 4 = some .cmd := rfl

theorem launch_of_illegal (s : State) {v : Word} {e : Illegal} (h : decode v = .error e) :
    launch s v = completeFlags (launchFlags s v) (errorCode .illegalCommand) := by
  obtain ⟨-, -, hlaunch⟩ | ⟨i, hlegal, -⟩ := launch_cases s v
  · exact hlaunch
  · exact nomatch h.symm.trans hlegal

/-- The launch's flags and the completion's flags are all that an immediate completion changes
(spec/30_encoding.md R101). -/
theorem onlyFlags_completeFlags_launchFlags (s : State) (v : Word) (code : Byte) :
    OnlyFlags s (completeFlags (launchFlags s v) code) :=
  onlyFlags_completeFlags (launchFlags s v) code

/-! ## The obligation -/

/-- Settles O7: the write to an idle engine is the launch, and the launch of an illegal word is two changes of flags. -/
theorem illegalWordCompletesWithIllegalCommand : Obligations.IllegalWordCompletesWithIllegalCommand := by
  intro s v e _ hidle hillegal
  have hwrite : busWrite s 0x000000 4 v = completeFlags (launchFlags s v) (errorCode .illegalCommand) :=
    (busWrite_of_idle v (accessTarget_cmd s) hidle).trans (launch_of_illegal s hillegal)
  exact ⟨_, hwrite, writeAnswer_of_mapped (accessTarget_cmd s), rfl, rfl, rfl, rfl, rfl,
    onlyFlags_completeFlags_launchFlags s v _⟩

end Sys2Proof.Machine

/-! PROOFS. The fields of a word put together from fields, decoding by format, and the rows of the opcode map; then the
obligations O2, O3, O4 and O1 about spec/30_encoding.md. -/

namespace Sys2Proof

/-! ## A word and its fields -/

/-- The layout of a command word (spec/30_encoding.md R102). -/
theorem mkWord_getLsbD (arg : BitVec 16) (mode var : BitVec 2) (opc : BitVec 8) (i : Nat) :
    (mkWord arg mode var opc).getLsbD i =
      if i < 8 then opc.getLsbD i else if i < 10 then var.getLsbD (i - 8) else if i < 12 then mode.getLsbD (i - 10)
      else if i < 16 then false else arg.getLsbD (i - 16) := by
  change (arg ++ 0#4 ++ mode ++ var ++ opc : BitVec (16 + 4 + 2 + 2 + 8)).getLsbD i = _
  simp only [BitVec.getLsbD_append, BitVec.getLsbD_zero, Nat.sub_sub]
  split_ifs <;> first | rfl | omega

/-- A field of a word is known by its bits. -/
theorem extractLsb'_eq_of_bits {v : Word} {lo n : Nat} {x : BitVec n}
    (h : ∀ i < n, v.getLsbD (lo + i) = x.getLsbD i) : v.extractLsb' lo n = x :=
  BitVec.eq_of_getLsbD_eq fun i hi => by
    rw [BitVec.getLsbD_extractLsb', decide_eq_true hi, Bool.true_and, h i hi]

section
variable (arg : BitVec 16) (mode var : BitVec 2) (opc : BitVec 8)

@[simp] theorem fieldOpc_mkWord : fieldOpc (mkWord arg mode var opc) = opc :=
  extractLsb'_eq_of_bits fun i hi => by
    rw [mkWord_getLsbD, if_pos (by omega), Nat.zero_add]

@[simp] theorem fieldVar_mkWord : fieldVar (mkWord arg mode var opc) = var :=
  extractLsb'_eq_of_bits fun i hi => by
    rw [mkWord_getLsbD, if_neg (by omega), if_pos (by omega), Nat.add_sub_cancel_left]

@[simp] theorem fieldMode_mkWord : fieldMode (mkWord arg mode var opc) = mode :=
  extractLsb'_eq_of_bits fun i hi => by
    rw [mkWord_getLsbD, if_neg (by omega), if_neg (by omega), if_pos (by omega), Nat.add_sub_cancel_left]

@[simp] theorem fieldZero_mkWord : fieldZero (mkWord arg mode var opc) = 0 :=
  extractLsb'_eq_of_bits fun i hi => by
    rw [mkWord_getLsbD, if_neg (by omega), if_neg (by omega), if_neg (by omega), if_pos (by omega)]
    exact BitVec.getLsbD_zero.symm

@[simp] theorem fieldArg_mkWord : fieldArg (mkWord arg mode var opc) = arg :=
  extractLsb'_eq_of_bits fun i hi => by
    rw [mkWord_getLsbD, if_neg (by omega), if_neg (by omega), if_neg (by omega), if_neg (by omega),
      Nat.add_sub_cancel_left]

end

/-- A word is made of its fields, once ZERO is zero. -/
theorem mkWord_fields {v : Word} (h : fieldZero v = 0) :
    mkWord (fieldArg v) (fieldMode v) (fieldVar v) (fieldOpc v) = v := by
  have zeroBit (i : Nat) (hlo : 12 ≤ i) (hhi : i < 16) : v.getLsbD i = false := by
    have := congrArg (fun z : BitVec 4 => z.getLsbD (i - 12)) h
    simpa [fieldZero, BitVec.getLsbD_extractLsb', show i - 12 < 4 by omega, Nat.add_sub_cancel' hlo] using this
  refine BitVec.eq_of_getLsbD_eq fun i hi => ?_
  have bit (lo n : Nat) (hlo : lo ≤ i) (hn : i < lo + n) : (v.extractLsb' lo n).getLsbD (i - lo) = v.getLsbD i := by
    rw [BitVec.getLsbD_extractLsb', decide_eq_true (by omega), Bool.true_and, Nat.add_sub_cancel' hlo]
  rw [mkWord_getLsbD]
  split_ifs
  · exact bit 0 8 (by omega) (by omega)
  · exact bit 8 2 (by omega) (by omega)
  · exact bit 10 2 (by omega) (by omega)
  · exact (zeroBit i (by omega) (by omega)).symm
  · exact bit 16 16 (by omega) (by omega)

/-! ## The codes of variants and modes -/

@[simp] theorem variantOfCode_code (x : Variant) : variantOfCode x.code = some x := by cases x <;> rfl

@[simp] theorem modeOfCode_code (y : Mode) : modeOfCode y.code = some y := by cases y <;> rfl

theorem code_of_variantOfCode {c : BitVec 2} {x : Variant} (h : variantOfCode c = some x) : x.code = c := by
  unfold variantOfCode at h
  split_ifs at h with h1 h2 h3
  · cases h; exact h1.symm
  · cases h; exact h2.symm
  · cases h; exact h3.symm

theorem code_of_modeOfCode {c : BitVec 2} {y : Mode} (h : modeOfCode c = some y) : y.code = c := by
  unfold modeOfCode at h
  split_ifs at h with h1 h2
  · cases h; exact h1.symm
  · cases h; exact h2.symm

/-! ## Decoding, format by format (spec/30_encoding.md R103, R110) -/

section
variable {opc : BitVec 8}

theorem decode_wordN {i : Instr} (h : formatOf opc = some (.n i)) : decode (wordN opc) = .ok i := by
  simp [decode, wordN, h]

theorem decode_wordV {i : Variant → Instr} (x : Variant) (h : formatOf opc = some (.v i)) :
    decode (wordV x opc) = .ok (i x) := by
  simp [decode, wordV, h]

theorem decode_wordM {i : Variant → Mode → Instr} (x : Variant) (y : Mode) (h : formatOf opc = some (.m i)) :
    decode (wordM x y opc) = .ok (i x y) := by
  simp [decode, wordM, h]

theorem decode_wordA {i : BitVec 16 → Instr} (arg : BitVec 16) (h : formatOf opc = some (.a i)) :
    decode (wordA arg opc) = .ok (i arg) := by
  simp [decode, wordA, h]

end

/-- The commands a format selects are well-formed, and their words are the format's words with that opcode. -/
def Format.Encodes (opc : BitVec 8) : Format → Prop
  | .n i => encode i = wordN opc ∧ i.wf = true
  | .v i => ∀ x, encode (i x) = wordV x opc ∧ (i x).wf = true
  | .m i => ∀ x y, encode (i x y) = wordM x y opc ∧ (i x y).wf = true
  | .a i => ∀ arg, encode (i arg) = wordA arg opc ∧ (i arg).wf = true

theorem encodes_of_number {opc : BitVec 8} {i : Nat → Instr}
    (h : ∀ n, encode (i n) = wordA (BitVec.ofNat 16 n) opc ∧ (i n).wf = argFits n) :
    Format.Encodes opc (.a fun arg => i arg.toNat) := fun arg => by
  obtain ⟨hword, hwf⟩ := h arg.toNat
  rw [hword, hwf, BitVec.ofNat_toNat, BitVec.setWidth_eq]
  exact ⟨rfl, decide_eq_true arg.isLt⟩

theorem encodes_gfmul : Format.Encodes 0x10 (.a fun arg => .gfmul (arg.extractLsb' 8 8) (arg.extractLsb' 0 8)) :=
  fun arg => by
    have halves : arg.extractLsb' 8 8 ++ arg.extractLsb' 0 8 = arg :=
      BitVec.eq_of_getLsbD_eq fun i hi => by
        rw [BitVec.getLsbD_append]
        split_ifs with h8
        · simp [h8]
        · simp [show i - 8 < 8 by omega, Nat.add_sub_cancel' (Nat.not_lt.mp h8)]
    exact ⟨congrArg (wordA · 0x10) halves, rfl⟩

theorem eq_ofNat_of_toNat {opc : BitVec 8} {n : Nat} (h : opc.toNat = n) : opc = BitVec.ofNat 8 n := by
  rw [← h, BitVec.ofNat_toNat, BitVec.setWidth_eq]

/-- The opcode map and the encoder agree on every row (spec/30_encoding.md R107). -/
theorem encodes_of_formatOf {opc : BitVec 8} {f : Format} (h : formatOf opc = some f) : f.Encodes opc := by
  unfold formatOf at h
  split at h
  case h_3 hopc =>
    obtain rfl := eq_ofNat_of_toNat hopc
    cases h
    exact encodes_gfmul
  case h_11 hopc | h_16 hopc | h_17 hopc | h_20 hopc =>
    obtain rfl := eq_ofNat_of_toNat hopc
    cases h
    exact encodes_of_number fun _ => ⟨rfl, rfl⟩
  case h_4 hopc =>
    obtain rfl := eq_ofNat_of_toNat hopc
    cases h
    intro x
    cases x <;> exact ⟨rfl, rfl⟩
  case h_22 hopc | h_23 hopc =>
    obtain rfl := eq_ofNat_of_toNat hopc
    cases h
    intro x y
    cases x <;> cases y <;> exact ⟨rfl, rfl⟩
  case h_24 => nomatch h
  all_goals
    next hopc =>
      obtain rfl := eq_ofNat_of_toNat hopc
      cases h
      exact ⟨rfl, rfl⟩

/-- A legal word lies in one of the four formats (spec/30_encoding.md R103). -/
theorem decode_cases {v : Word} {i : Instr} (h : decode v = .ok i) :
    (formatOf (fieldOpc v) = some (.n i) ∧ v = wordN (fieldOpc v)) ∨
    (∃ f x, formatOf (fieldOpc v) = some (.v f) ∧ i = f x ∧ v = wordV x (fieldOpc v)) ∨
    (∃ f x y, formatOf (fieldOpc v) = some (.m f) ∧ i = f x y ∧ v = wordM x y (fieldOpc v)) ∨
    ∃ f, formatOf (fieldOpc v) = some (.a f) ∧ i = f (fieldArg v) ∧ v = wordA (fieldArg v) (fieldOpc v) := by
  unfold decode at h
  split at h
  case h_1 => nomatch h
  case h_2 hf =>
    split_ifs at h with hzero
    obtain ⟨hvar, hmode, hz, harg⟩ := hzero
    cases h
    refine .inl ⟨hf, ?_⟩
    have := mkWord_fields hz
    rw [hvar, hmode, harg] at this
    exact this.symm
  case h_3 f hf =>
    split_ifs at h with hzero
    obtain ⟨hmode, hz, harg⟩ := hzero
    split at h
    · nomatch h
    next x hx =>
      cases h
      refine .inr (.inl ⟨f, x, hf, rfl, ?_⟩)
      have := mkWord_fields hz
      rw [← code_of_variantOfCode hx, hmode, harg] at this
      exact this.symm
  case h_4 f hf =>
    split_ifs at h with hzero
    obtain ⟨hz, harg⟩ := hzero
    split at h
    · nomatch h
    · nomatch h
    next x y hx hy =>
      cases h
      refine .inr (.inr (.inl ⟨f, x, y, hf, rfl, ?_⟩))
      have := mkWord_fields hz
      rw [← code_of_variantOfCode hx, ← code_of_modeOfCode hy, harg] at this
      exact this.symm
  case h_5 f hf =>
    split_ifs at h with hzero
    obtain ⟨hvar, hmode, hz⟩ := hzero
    cases h
    refine .inr (.inr (.inr ⟨f, hf, rfl, ?_⟩))
    have := mkWord_fields hz
    rw [hvar, hmode] at this
    exact this.symm

theorem decode_encode {i : Instr} (h : i.wf = true) : decode (encode i) = .ok i := by
  have number (f : Nat → Instr) {opc : BitVec 8} (n : Nat) (hn : argFits n = true)
      (hf : formatOf opc = some (.a fun arg => f arg.toNat)) : decode (wordA (BitVec.ofNat 16 n) opc) = .ok (f n) := by
    rw [decode_wordA _ hf, BitVec.toNat_ofNat, Nat.mod_eq_of_lt (of_decide_eq_true hn)]
  cases i
  case addRoundKey r => exact number .addRoundKey r h rfl
  case ldBlk n => exact number .ldBlk n h rfl
  case stBlk n => exact number .stBlk n h rfl
  case chBlk n => exact number .chBlk n h rfl
  case gfmul a b =>
    have high : (a ++ b : BitVec (8 + 8)).extractLsb' 8 8 = a := BitVec.extractLsb'_append_eq_left
    have low : (a ++ b : BitVec (8 + 8)).extractLsb' 0 8 = b := BitVec.extractLsb'_append_eq_right
    exact (decode_wordA (a ++ b) rfl).trans (congrArg Except.ok (congrArg₂ Instr.gfmul high low))
  case expand128 | expand192 | expand256 => exact decode_wordV (i := expandInstr) (opc := 0x20) _ rfl
  case encrypt128Ecb | encrypt192Ecb | encrypt256Ecb | encrypt128Cbc | encrypt192Cbc | encrypt256Cbc =>
    exact decode_wordM (i := encryptInstr) (opc := 0x58) _ _ rfl
  case decrypt128Ecb | decrypt192Ecb | decrypt256Ecb | decrypt128Cbc | decrypt192Cbc | decrypt256Cbc =>
    exact decode_wordM (i := decryptInstr) (opc := 0x59) _ _ rfl
  all_goals exact decode_wordN rfl

theorem encode_of_decode {v : Word} {i : Instr} (h : decode v = .ok i) : encode i = v ∧ i.wf = true := by
  obtain ⟨hf, hv⟩ | ⟨f, x, hf, rfl, hv⟩ | ⟨f, x, y, hf, rfl, hv⟩ | ⟨f, hf, rfl, hv⟩ := decode_cases h
  · exact (encodes_of_formatOf hf).imp_left (·.trans hv.symm)
  · exact (encodes_of_formatOf hf x).imp_left (·.trans hv.symm)
  · exact (encodes_of_formatOf hf x y).imp_left (·.trans hv.symm)
  · exact (encodes_of_formatOf hf (fieldArg v)).imp_left (·.trans hv.symm)

/-! ## The rows of the opcode map (spec/30_encoding.md R107) -/

/-- The command that stands for a command's row in `tableRows`: its operands are zero. -/
def Instr.row : Instr → Instr
  | .gfmul _ _ => .gfmul 0 0
  | .addRoundKey _ => .addRoundKey 0
  | .ldBlk _ => .ldBlk 0
  | .stBlk _ => .stBlk 0
  | .chBlk _ => .chBlk 0
  | i => i

theorem row_mem_tableRows (i : Instr) : i.row ∈ tableRows := by cases i <;> simp [Instr.row, tableRows]

theorem row_of_mem_tableRows {j : Instr} (h : j ∈ tableRows) : j.row = j := by
  revert j
  decide

theorem row_row (i : Instr) : i.row.row = i.row := row_of_mem_tableRows (row_mem_tableRows i)

theorem rowOf_row (i : Instr) : rowOf i.row = rowOf i := by cases i <;> rfl

section
open Laws

theorem selectsRow_encode (i : Instr) : selectsRow (encode i) i = true := by
  cases i
  exacts [RowMatch.nop, RowMatch.clear, RowMatch.gfmul _ _, RowMatch.expand128, RowMatch.expand192, RowMatch.expand256,
    RowMatch.subBytes, RowMatch.invSubBytes, RowMatch.shiftRows, RowMatch.invShiftRows, RowMatch.mixColumns,
    RowMatch.invMixColumns, RowMatch.addRoundKey _, RowMatch.encBlk, RowMatch.decBlk, RowMatch.pad, RowMatch.unpad,
    RowMatch.ldBlk _, RowMatch.stBlk _, RowMatch.chIv, RowMatch.chS, RowMatch.chBlk _, RowMatch.xch,
    RowMatch.encrypt128Ecb, RowMatch.encrypt192Ecb, RowMatch.encrypt256Ecb, RowMatch.encrypt128Cbc,
    RowMatch.encrypt192Cbc, RowMatch.encrypt256Cbc, RowMatch.decrypt128Ecb, RowMatch.decrypt192Ecb,
    RowMatch.decrypt256Ecb, RowMatch.decrypt128Cbc, RowMatch.decrypt192Cbc, RowMatch.decrypt256Cbc]

end

/-- A row without operand fields selects one word only. -/
theorem eq_encode_of_selectsRow {v : Word} {j : Instr} (hmask : (rowOf j).2 = fullMask) (h : selectsRow v j = true) :
    v = encode j := by
  have matchOf {u : Word} (hu : selectsRow u j = true) : u = (rowOf j).1 := by
    have hu := eq_of_beq hu
    rwa [hmask, show fullMask = BitVec.allOnes 32 from rfl, BitVec.and_allOnes] at hu
  exact (matchOf h).trans (matchOf (selectsRow_encode j)).symm

/-- A format A row selects the words with its opcode and nothing else below ARG. -/
theorem eq_wordA_of_masked {v : Word} {opc : BitVec 8} (h : v &&& argMask = opc.setWidth 32) :
    v = wordA (fieldArg v) opc := by
  have hboth : v &&& argMask = wordA (fieldArg v) opc &&& argMask := h.trans (Laws.RowMatch.wordA_masked _ opc).symm
  refine BitVec.eq_of_getLsbD_eq fun i hi => ?_
  rcases Nat.lt_or_ge i 16 with hlow | hhigh
  · have hmask : argMask.getLsbD i = true := by
      interval_cases i <;> rfl
    have hbit := congrArg (fun z : Word => z.getLsbD i) hboth
    simpa only [BitVec.getLsbD_and, hmask, Bool.and_true] using hbit
  · rw [wordA, mkWord_getLsbD, if_neg (by omega), if_neg (by omega), if_neg (by omega), if_neg (by omega), fieldArg,
      BitVec.getLsbD_extractLsb', decide_eq_true (by omega), Bool.true_and, Nat.add_sub_cancel' hhigh]

/-- Decoding by rows: a row selects exactly the words that decode to a command of that row. -/
theorem selectsRow_iff {v : Word} {j : Instr} : selectsRow v j = true ↔ ∃ i, i.row = j.row ∧ decode v = .ok i := by
  constructor
  · intro h
    have operand (opc : BitVec 8) {f : BitVec 16 → Instr} (hf : formatOf opc = some (.a f))
        (hrow : ∀ arg, (f arg).row = j.row) (hj : rowOf j = (opc.setWidth 32, argMask)) :
        ∃ i, i.row = j.row ∧ decode v = .ok i := by
      rw [selectsRow, hj] at h
      refine ⟨f (fieldArg v), hrow _, ?_⟩
      have hdecode := decode_wordA (fieldArg v) hf
      rwa [← eq_wordA_of_masked (eq_of_beq h)] at hdecode
    have noOperand (hwf : j.wf = true) (hmask : (rowOf j).2 = fullMask) : ∃ i, i.row = j.row ∧ decode v = .ok i :=
      ⟨j, rfl, by rw [eq_encode_of_selectsRow hmask h, decode_encode hwf]⟩
    cases j
    case gfmul => exact operand 0x10 rfl (fun _ => rfl) rfl
    case addRoundKey => exact operand 0x36 rfl (fun _ => rfl) rfl
    case ldBlk => exact operand 0x42 rfl (fun _ => rfl) rfl
    case stBlk => exact operand 0x43 rfl (fun _ => rfl) rfl
    case chBlk => exact operand 0x52 rfl (fun _ => rfl) rfl
    all_goals exact noOperand rfl rfl
  · rintro ⟨i, hrow, hdecode⟩
    have hsame : rowOf j = rowOf i := by rw [← rowOf_row j, ← hrow, rowOf_row]
    rw [← (encode_of_decode hdecode).1, selectsRow, hsame]
    exact selectsRow_encode i

/-! ## The obligations -/

/-- Settles O2: the decoder finds every field where the encoder put it. -/
theorem decodeOfEncodeIsIdentity : Obligations.DecodeOfEncodeIsIdentity := fun _ => decode_encode

/-- Settles O3: the decoder's checks leave no field free but the operands. -/
theorem legalWordIsItsCommandsWord : Obligations.LegalWordIsItsCommandsWord := fun _ _ => encode_of_decode

/-- Settles O4: each row selects the words that decode to its commands, so two rows that select one word are one. -/
theorem fieldDecoderAgreesWithOpcodeRows : Obligations.FieldDecoderAgreesWithOpcodeRows := by
  refine fun v => ⟨⟨fun ⟨i, hi⟩ => ?_, fun ⟨j, _, hj⟩ => ?_⟩, fun i hi => selectsRow_iff.mpr ⟨i, rfl, hi⟩,
    fun j hj k hk hjv hkv => ?_⟩
  · exact ⟨i.row, row_mem_tableRows i, selectsRow_iff.mpr ⟨i, (row_row i).symm, hi⟩⟩
  · obtain ⟨i, -, hi⟩ := selectsRow_iff.mp hj
    exact ⟨i, hi⟩
  · obtain ⟨i, hij, hi⟩ := selectsRow_iff.mp hjv
    obtain ⟨i', hik, hi'⟩ := selectsRow_iff.mp hkv
    obtain rfl := Except.ok.inj (hi.symm.trans hi')
    rw [← row_of_mem_tableRows hj, ← hij, hik, row_of_mem_tableRows hk]

/-- Settles O1: the six words are those of their commands, and the other three fail a check of the decoder. -/
theorem workedEncodingsDecode : Obligations.WorkedEncodingsDecode := by
  have worked {i : Instr} {v : Word} (hwf : i.wf = true) (hword : encode i = v) : encode i = v ∧ decode v = .ok i :=
    ⟨hword, hword ▸ decode_encode hwf⟩
  refine ⟨worked rfl (by decide), worked rfl (by decide), worked rfl (by decide), worked rfl (by decide),
    worked rfl (by decide), worked rfl (by decide), ⟨.reservedVariant, ?_⟩, ⟨.reservedMode, ?_⟩, .reservedOpcode, ?_⟩
  · decide
  · decide
  · decide

end Sys2Proof

/-! PROOFS. How long the byte sequences of the mode functions are, everything a command can do, and everything a host
operation can do. -/

namespace Sys2Proof.Machine

/-! ## Lengths of the mode functions (spec/44_mode_controller.md R224 to R229) -/

section
variable (w : Schedule) (nr : Nat)

@[simp] theorem ecbEnc_length (ps : List Block) : (ecbEnc ps w nr).length = ps.length := List.length_map ..

@[simp] theorem ecbDec_length (cs : List Block) : (ecbDec cs w nr).length = cs.length := List.length_map ..

@[simp] theorem cbcEnc_length (ps : List Block) (reg : Block) : (cbcEnc ps w nr reg).length = ps.length := by
  induction ps generalizing reg with
  | nil => rfl
  | cons p ps ih => rw [cbcEnc, List.length_cons, ih, List.length_cons]

@[simp] theorem cbcCombine_length (l : List (Block × Block)) (reg : Block) : (cbcCombine l reg).length = l.length := by
  induction l generalizing reg with
  | nil => rfl
  | cons c l ih => rw [cbcCombine, List.length_cons, ih, List.length_cons]

@[simp] theorem cbcDec_length (cs : List Block) (iv : Block) : (cbcDec cs w nr iv).length = cs.length := by
  simp [cbcDec]

end

section
variable (x : Variant) (y : Mode) (k : List Byte) (iv : Block)

theorem enc_length (m : List Byte) : (enc m x y k iv).length = 16 * (m.length / 16 + 1) := by
  have hblocks : (split (pad m)).length = m.length / 16 + 1 := by rw [split_length, pad_length]; omega
  cases y <;> simp [enc, merge_length, hblocks]

theorem decPadded_length (c : List Byte) : (decPadded c x y k iv).length = 16 * (c.length / 16) := by
  cases y <;> simp [decPadded, merge_length]

theorem dec_length_le {c r : List Byte} (h : dec c x y k iv = some r) : r.length ≤ c.length := by
  obtain ⟨p, -, -, hb⟩ := eq_append_replicate_of_unpad h
  have hlen := congrArg List.length hb
  rw [decPadded_length, List.length_append] at hlen
  omega

end

@[simp] theorem message_length (s : State) : s.message.length = s.len.toNat := Memory.readBytes_length ..

theorem keyBytes_length (s : State) (x : Variant) : (s.keyBytes x).length = keyLen x := by
  rw [State.keyBytes, List.length_take, Vector.length_toList]
  cases x <;> rfl

/-! ## Everything a command can do -/

/-- What a command can do to the state before its flags are set: the updates the rules of spec/40 to spec/45 name. -/
inductive CommandEffect (s : State) : State → Prop
  | none : CommandEffect s s
  | st (m : Mat) : CommandEffect s (s.setSt m)
  | chain (b : Block) : CommandEffect s (s.setChain b)
  | gfr (g : Byte) : CommandEffect s { s with gfr := g }
  | consumeKey : CommandEffect s s.consumeKey
  | expand (x : Variant) (k : List Byte) (w : Schedule) (hk : k.length = keyLen x) (hw : w = schedule x k) :
    CommandEffect s (s.setSchedule x w).consumeKey
  | pad (hlen : s.len.toNat < s.maxLen) : CommandEffect s
    { s with
      inBuf := Memory.writeBytes s.inBuf s.len.toNat (padBytes s.len.toNat),
      len := BitVec.ofNat 32 (s.len.toNat + padCount s.len.toNat) }
  | cut (n : Nat) (hn : n ≤ s.outlen.toNat) : CommandEffect s (s.cutResult n)
  | store (n : Nat) (b : Block) (hn : 16 * n + 16 ≤ s.maxLen) : CommandEffect s
    { s with
      outBuf := Memory.writeBlock s.outBuf (16 * n) b,
      outlen := if s.outlen.toNat < 16 * n + 16 then BitVec.ofNat 32 (16 * n + 16) else s.outlen }
  | noResult : CommandEffect s s.noResult
  | messageFailed : CommandEffect s s.noResult.wipeSecrets
  | message (r : List Byte) (hr : r.length ≤ s.maxLen) : CommandEffect s (s.setResult r).wipeSecrets
  | cleared : CommandEffect s s.cleared

/-- An outcome is the completion of a command from s, without an error or with one of spec/60_exceptions.md R261. -/
def Completes (s : State) (o : Host.Outcome State Fault Refusal) : Prop :=
  ∃ u code, o = .next (completeFlags u code) ∧ CommandEffect s u ∧ (code = 0 ∨ ∃ e, code = errorCode e)

section
variable {s u : State} {o : Host.Outcome State Fault Refusal}

theorem CommandEffect.completes (h : CommandEffect s u) (ho : o = .next (completeFlags u 0)) : Completes s o :=
  ⟨u, 0, ho, h, .inl rfl⟩

theorem CommandEffect.raises (h : CommandEffect s u) {e : CmdError} (ho : o = .next (completeFlags u (errorCode e))) :
    Completes s o :=
  ⟨u, _, ho, h, .inr ⟨e, rfl⟩⟩

end

section
variable (s : State)

theorem expandCommand_completes (x : Variant) : Completes s (expandCommand x s) := by
  obtain ⟨-, hraise⟩ | ⟨-, hnext⟩ := expandCommand_cases x s
  · exact CommandEffect.consumeKey.raises hraise
  · exact (CommandEffect.expand x _ _ (keyBytes_length s x) rfl).completes hnext

theorem execAddRoundKey_completes (r : Nat) : Completes s (execAddRoundKey r s) := by
  obtain ⟨-, hraise⟩ | ⟨-, -, hraise⟩ | ⟨-, -, hnext⟩ := execAddRoundKey_cases r s
  · exact CommandEffect.none.raises hraise
  · exact CommandEffect.none.raises hraise
  · exact (CommandEffect.st _).completes hnext

theorem execEncBlk_completes : Completes s (execEncBlk s) := by
  obtain ⟨-, hraise⟩ | ⟨-, hnext⟩ := execEncBlk_cases s
  · exact CommandEffect.none.raises hraise
  · exact (CommandEffect.st _).completes hnext

theorem execDecBlk_completes : Completes s (execDecBlk s) := by
  obtain ⟨-, hraise⟩ | ⟨-, hnext⟩ := execDecBlk_cases s
  · exact CommandEffect.none.raises hraise
  · exact (CommandEffect.st _).completes hnext

theorem execPad_completes : Completes s (execPad s) := by
  obtain ⟨-, hraise⟩ | ⟨hlen, hnext⟩ := execPad_cases s
  · exact CommandEffect.none.raises hraise
  · exact (CommandEffect.pad hlen).completes hnext

theorem execUnpad_completes : Completes s (execUnpad s) := by
  obtain ⟨-, hraise⟩ | ⟨r, hr, hnext⟩ := execUnpad_cases s
  · exact CommandEffect.noResult.raises hraise
  · obtain ⟨p, -, -, hb⟩ := eq_append_replicate_of_unpad hr
    have hlen := congrArg List.length hb
    rw [State.result, Memory.readBytes_length, List.length_append] at hlen
    exact (CommandEffect.cut r.length (by omega)).completes hnext

theorem execLdBlk_completes (n : Nat) : Completes s (execLdBlk n s) := by
  obtain ⟨_, -, hraise⟩ | ⟨-, hnext⟩ := execLdBlk_cases n s
  · exact CommandEffect.none.raises hraise
  · exact (CommandEffect.st _).completes hnext

theorem execStBlk_completes (n : Nat) : Completes s (execStBlk n s) := by
  obtain ⟨-, hraise⟩ | ⟨hn, hnext⟩ := execStBlk_cases n s
  · exact CommandEffect.none.raises hraise
  · exact (CommandEffect.store n _ hn).completes hnext

theorem execChIv_completes : Completes s (execChIv s) := by
  obtain ⟨-, hraise⟩ | ⟨-, hnext⟩ := execChIv_cases s
  · exact CommandEffect.none.raises hraise
  · exact (CommandEffect.chain _).completes hnext

theorem execChBlk_completes (n : Nat) : Completes s (execChBlk n s) := by
  obtain ⟨_, -, hraise⟩ | ⟨-, hnext⟩ := execChBlk_cases n s
  · exact CommandEffect.none.raises hraise
  · exact (CommandEffect.chain _).completes hnext

theorem encryptCommand_completes (x : Variant) (y : Mode) : Completes s (encryptCommand x y s) := by
  obtain ⟨_, hraise, -⟩ | ⟨-, -, hlen, hnext⟩ := encryptCommand_cases x y s
  · exact CommandEffect.messageFailed.raises hraise
  · have hfits := State.pad_fits hlen
    rw [add_padCount] at hfits
    exact (CommandEffect.message _ (by rwa [enc_length, message_length])).completes hnext

theorem decryptCommand_completes (x : Variant) (y : Mode) : Completes s (decryptCommand x y s) := by
  obtain ⟨_, hraise, -⟩ | ⟨r, -, -, -, hlen, hdec, hnext⟩ := decryptCommand_cases x y s
  · exact CommandEffect.messageFailed.raises hraise
  · have hshort := dec_length_le x y _ _ hdec
    rw [message_length] at hshort
    exact (CommandEffect.message r (hshort.trans hlen)).completes hnext

/-- Every command completes, with one of the effects above (spec/60_exceptions.md R260, R269, R270). -/
theorem exec_completes (i : Instr) : Completes s (exec i s) := by
  cases i
  case nop => exact CommandEffect.none.completes rfl
  case clear => exact CommandEffect.cleared.completes rfl
  case gfmul a b => exact (CommandEffect.gfr (gfMul a b)).completes rfl
  case expand128 => exact expandCommand_completes s .v128
  case expand192 => exact expandCommand_completes s .v192
  case expand256 => exact expandCommand_completes s .v256
  case subBytes => exact (CommandEffect.st _).completes (exec_subBytes s)
  case invSubBytes => exact (CommandEffect.st _).completes (exec_invSubBytes s)
  case shiftRows => exact (CommandEffect.st _).completes (exec_shiftRows s)
  case invShiftRows => exact (CommandEffect.st _).completes (exec_invShiftRows s)
  case mixColumns => exact (CommandEffect.st (mixColumns s.st)).completes rfl
  case invMixColumns => exact (CommandEffect.st (invMixColumns s.st)).completes rfl
  case addRoundKey r => exact execAddRoundKey_completes s r
  case encBlk => exact execEncBlk_completes s
  case decBlk => exact execDecBlk_completes s
  case pad => exact execPad_completes s
  case unpad => exact execUnpad_completes s
  case ldBlk n => exact execLdBlk_completes s n
  case stBlk n => exact execStBlk_completes s n
  case chIv => exact execChIv_completes s
  case chS => exact (CommandEffect.chain _).completes (exec_chS s)
  case chBlk n => exact execChBlk_completes s n
  case xch => exact (CommandEffect.st _).completes (exec_xch s)
  case encrypt128Ecb => exact encryptCommand_completes s .v128 .ecb
  case encrypt192Ecb => exact encryptCommand_completes s .v192 .ecb
  case encrypt256Ecb => exact encryptCommand_completes s .v256 .ecb
  case encrypt128Cbc => exact encryptCommand_completes s .v128 .cbc
  case encrypt192Cbc => exact encryptCommand_completes s .v192 .cbc
  case encrypt256Cbc => exact encryptCommand_completes s .v256 .cbc
  case decrypt128Ecb => exact decryptCommand_completes s .v128 .ecb
  case decrypt192Ecb => exact decryptCommand_completes s .v192 .ecb
  case decrypt256Ecb => exact decryptCommand_completes s .v256 .ecb
  case decrypt128Cbc => exact decryptCommand_completes s .v128 .cbc
  case decrypt192Cbc => exact decryptCommand_completes s .v192 .cbc
  case decrypt256Cbc => exact decryptCommand_completes s .v256 .cbc

/-- The completion of a running command, its word legal or not, is a completion of that kind. -/
theorem finish_completes : Completes s (finish s) := by
  unfold finish
  split
  · exact CommandEffect.none.raises (State.raise_eq s _)
  · exact exec_completes s _

end

section
variable {s u : State} (h : CommandEffect s u)
include h

/-- No command writes the parameters, the host's side or LASTCMD. -/
theorem CommandEffect.sameHost : SameHost s u := by
  cases h <;> exact ⟨rfl, rfl, rfl, rfl⟩

theorem CommandEffect.lastcmd_eq : u.lastcmd = s.lastcmd := by
  cases h <;> rfl

end

/-! ## Everything a host operation can do -/

/-- What the host's next operation can do to the engine: nothing; on an idle engine the launch of a word, a write to
registers or to a word inside IN; reset (spec/20_memory.md R75, R85; spec/70_reset_and_hazards.md R290). -/
inductive HostEffect (s : State) : State → Prop
  | none : HostEffect s s
  | launched (v : Word) (hidle : s.busy = false) : HostEffect s (launch s v)
  | registers (key : Vector Byte 32) (keylen : BitVec 6) (iv : Block) (ivp : Bool) (st : Mat) (len : Word) :
    HostEffect s { s with key := key, keylen := keylen, iv := iv, ivp := ivp, st := st, len := len }
  | input (a : Nat) (v : Word) (ha : a + 4 ≤ s.maxLen) :
    HostEffect s { s with inBuf := Memory.writeWord s.inBuf a v }
  | reset : HostEffect s (resetEngine s)

/-- A word of IN the bus accepts lies inside the buffer: MAXLEN is a multiple of 4 (spec/00_scope.md R7). -/
theorem inWord_fits {s : State} {addr : Addr} {width a : Nat} (h : accessTarget s addr width = some (.inWord a)) :
    a + 4 ≤ s.maxLen := by
  unfold accessTarget at h
  split_ifs at h with haligned
  obtain ⟨haddr, ha⟩ := targetAt_inWord h
  obtain ⟨-, -, hmax⟩ := s.maxLen_range
  unfold inBase at haddr
  omega

theorem hostEffect_writeTarget {s : State} {addr : Addr} {width : Nat} {t : Target}
    (htarget : accessTarget s addr width = some t) (hidle : s.busy = false) (v : Word) :
    HostEffect s (writeTarget s v t) := by
  cases t with
  | cmd => exact .launched v hidle
  | inWord a => exact .input a v (inWord_fits htarget)
  | param => exact .registers s.key _ s.iv _ s.st s.len
  | len => exact .registers s.key s.keylen s.iv s.ivp s.st v
  | key k => exact .registers _ s.keylen s.iv s.ivp s.st s.len
  | iv k => exact .registers s.key s.keylen _ s.ivp s.st s.len
  | st k => exact .registers s.key s.keylen s.iv s.ivp _ s.len
  | status | outlen | gfr | lastcmd | chain | w | outWord => exact .none

theorem hostEffect_busWrite (s : State) (addr : Addr) (width : Nat) (v : Word) :
    HostEffect s (busWrite s addr width v) := by
  obtain hsame | ⟨t, htarget, hidle, hwrite⟩ := busWrite_cases s addr width v
  · rw [hsame]; exact .none
  · rw [hwrite]; exact hostEffect_writeTarget htarget hidle v

/-- Serving the host changes the engine by one such effect; what it has pending and its answers are its own side. -/
theorem serve_effect (s : State) :
    ∃ u p a, HostEffect s u ∧ serve s = { u with pending := p, answers := a } := by
  cases hp : s.pending with
  | nil => exact ⟨s, _, _, .none, serve_nothing hp⟩
  | cons op rest =>
    cases op with
    | read addr width => exact ⟨s, _, _, .none, serve_read hp⟩
    | write addr width v => exact ⟨_, _, _, hostEffect_busWrite s addr width v, serve_write hp⟩
    | wait => exact ⟨s, _, _, .none, serve_wait hp⟩
    | readOut => exact ⟨s, _, _, .none, serve_readOut hp⟩
    | readResult =>
      rw [serve_readResult hp]
      split
      · exact ⟨s, _, _, .none, rfl⟩
      · exact ⟨s, _, _, .none, rfl⟩
    | reset => exact ⟨_, _, _, .reset, serve_reset hp⟩

/-- A property every command's completion and every host operation keeps, whatever the count in SEQ and the host's side
are, is kept by every step. -/
theorem step_keeps {P : State → Prop}
    (hcommand : ∀ s u code, P s → CommandEffect s u → P (completeFlags u code))
    (hhost : ∀ s u, P s → HostEffect s u → P u)
    (hside : ∀ s q p a, P s → P { s with seq := q, pending := p, answers := a }) {s t : State} (hs : P s)
    (h : step s = .next t) : P t := by
  have served (s : State) (hs : P s) : P (serve s) := by
    obtain ⟨u, p, a, heffect, hserve⟩ := serve_effect s
    rw [hserve]
    exact hside u u.seq p a (hhost s u hs heffect)
  obtain ⟨-, hfinish⟩ | ⟨n, -, rfl⟩ | ⟨-, rfl⟩ := step_cases h
  · obtain ⟨u, code, hnext, heffect, -⟩ := finish_completes s
    obtain rfl := Host.Outcome.next.inj (hfinish.symm.trans hnext)
    exact hcommand s u code hs heffect
  · exact served _ (hside s _ s.pending s.answers hs)
  · exact served s hs

end Sys2Proof.Machine

/-! PROOFS. What every step keeps; then the obligations O12, O13, O14 and O11 about the invariants, and O8 and O9 about
completions. -/

namespace Sys2Proof.Machine

/-! ## The buffers' invariant (spec/10_state.md R33, R34) -/

section
variable {s t : State}

/-- A state with the buffers, OUTLEN and parameters of one that meets the invariant. -/
theorem BuffersOk.of_same (h : BuffersOk s) (hin : t.inBuf = s.inBuf) (hout : t.outBuf = s.outBuf)
    (houtlen : t.outlen = s.outlen) (hcfg : t.cfg = s.cfg) : BuffersOk t := by
  have hmax : t.maxLen = s.maxLen := congrArg Config.maxLen hcfg
  obtain ⟨inWf, outWf, inBelow, outBelow, outlenLe, outZero⟩ := h
  refine ⟨?_, ?_, ?_, ?_, ?_, ?_⟩
  · rwa [hin]
  · rwa [hout]
  · rwa [hin, hmax]
  · rwa [hout, hmax]
  · rwa [houtlen, hmax]
  · simpa only [State.outByte, houtlen, hout] using outZero

/-- A new IN buffer. -/
theorem BuffersOk.of_in (h : BuffersOk s) (hwf : Memory.wf t.inBuf = true)
    (hbelow : Memory.below s.maxLen t.inBuf = true) (hout : t.outBuf = s.outBuf) (houtlen : t.outlen = s.outlen)
    (hcfg : t.cfg = s.cfg) : BuffersOk t := by
  have hmax : t.maxLen = s.maxLen := congrArg Config.maxLen hcfg
  have hsame := h.of_same (t := { t with inBuf := s.inBuf }) rfl hout houtlen hcfg
  exact { hsame with inWf := hwf, inBelow := hmax ▸ hbelow }

/-- A new result. -/
theorem BuffersOk.of_out (h : BuffersOk s) (hwf : Memory.wf t.outBuf = true)
    (hbelow : Memory.below s.maxLen t.outBuf = true) (hle : t.outlen.toNat ≤ s.maxLen)
    (hzero : ∀ j, t.outlen.toNat ≤ j → t.outByte j = 0) (hin : t.inBuf = s.inBuf) (hcfg : t.cfg = s.cfg) :
    BuffersOk t := by
  have hmax : t.maxLen = s.maxLen := congrArg Config.maxLen hcfg
  have hsame := h.of_same (t := { t with outBuf := s.outBuf, outlen := s.outlen }) hin rfl rfl hcfg
  exact ⟨hsame.inWf, hwf, hsame.inBelow, hmax ▸ hbelow, hmax ▸ hle, hzero⟩

/-- An empty result. -/
theorem BuffersOk.of_noResult (h : BuffersOk s) (hin : t.inBuf = s.inBuf) (hout : t.outBuf = [])
    (houtlen : t.outlen = 0) (hcfg : t.cfg = s.cfg) : BuffersOk t :=
  h.of_out (hout ▸ rfl) (hout ▸ rfl) (houtlen ▸ Nat.zero_le _) (fun _ _ => by rw [State.outByte, hout]; rfl) hin hcfg

end

theorem buffersOk_resetFor (cfg : Config) : BuffersOk (State.resetFor cfg) where
  inWf := rfl
  outWf := rfl
  inBelow := rfl
  outBelow := rfl
  outlenLe := Nat.zero_le _
  outZero _ _ := rfl

/-- OUTLEN grows to cover a block stored (spec/43_padding_segmentation.md R211). -/
theorem storedOutlen_toNat {s : State} {n : Nat} (hn : 16 * n + 16 ≤ s.maxLen) :
    (if s.outlen.toNat < 16 * n + 16 then BitVec.ofNat 32 (16 * n + 16) else s.outlen).toNat =
      max s.outlen.toNat (16 * n + 16) := by
  obtain ⟨-, hmax, -⟩ := s.maxLen_range
  split_ifs with hgrow
  · rw [BitVec.toNat_ofNat, Nat.mod_eq_of_lt (by omega), Nat.max_eq_right hgrow.le]
  · exact (Nat.max_eq_left (Nat.not_lt.mp hgrow)).symm

/-- OUTLEN can hold the length of a sequence that fits a buffer. -/
theorem outlen_ofNat_toNat {s : State} {n : Nat} (hn : n ≤ s.maxLen) : (BitVec.ofNat 32 n).toNat = n := by
  obtain ⟨-, hmax, -⟩ := s.maxLen_range
  exact Nat.mod_eq_of_lt (by omega)

section
variable {s : State} (h : BuffersOk s)
include h

theorem buffersOk_pad (hlen : s.len.toNat < s.maxLen) (n : Word) :
    BuffersOk { s with inBuf := Memory.writeBytes s.inBuf s.len.toNat (padBytes s.len.toNat), len := n } := by
  refine h.of_in (Memory.wf_writeBytes _ _ h.inWf) (Memory.below_writeBytes _ h.inBelow ?_) rfl rfl rfl
  rw [padBytes, List.length_replicate]
  exact State.pad_fits hlen

/-- UNPAD's cut zeroes the result from the new OUTLEN on. -/
theorem buffersOk_cutResult {n : Nat} (hn : n ≤ s.outlen.toNat) : BuffersOk (s.cutResult n) := by
  have hoff : n + (s.outlen.toNat - n) = s.outlen.toNat := by omega
  refine h.of_out (Memory.wf_writeBytes _ _ h.outWf) (Memory.below_writeBytes _ h.outBelow ?_) ?_ (fun j hj => ?_)
    rfl rfl
  · rw [List.length_replicate, hoff]
    exact h.outlenLe
  · rw [cutResult_outlen_toNat hn]
    exact hn.trans h.outlenLe
  · rw [cutResult_outlen_toNat hn] at hj
    rcases Nat.lt_or_ge j s.outlen.toNat with hlt | hge
    · exact cutResult_outByte_of_cut h.outWf hj hlt
    · rw [cutResult_outByte_of_kept hn (.inr hge)]
      exact h.outZero j hge

theorem buffersOk_store {n : Nat} (b : Block) (hn : 16 * n + 16 ≤ s.maxLen) : BuffersOk
    { s with
      outBuf := Memory.writeBlock s.outBuf (16 * n) b,
      outlen := if s.outlen.toNat < 16 * n + 16 then BitVec.ofNat 32 (16 * n + 16) else s.outlen } := by
  have hbelow : 16 * n + b.toList.length ≤ s.maxLen := by rwa [Vector.length_toList]
  refine h.of_out (Memory.wf_writeBlock _ b h.outWf) (Memory.below_writeBytes _ h.outBelow hbelow) ?_ (fun j hj => ?_)
    rfl rfl
  · rw [storedOutlen_toNat hn]
    exact max_le h.outlenLe hn
  · rw [storedOutlen_toNat hn] at hj
    rw [State.outByte, Memory.read_writeBlock _ _ b h.outWf, if_neg (by omega)]
    exact h.outZero j (by omega)

theorem buffersOk_message {r : List Byte} (hr : r.length ≤ s.maxLen) : BuffersOk (s.setResult r).wipeSecrets := by
  refine h.of_out (Memory.wf_ofBytes r) (Memory.below_ofBytes r hr) ?_ (fun j hj => ?_) rfl rfl
  · rw [wipeSecrets_outlen, setResult_outlen, outlen_ofNat_toNat hr]
    exact hr
  · rw [wipeSecrets_outlen, setResult_outlen, outlen_ofNat_toNat hr] at hj
    exact (Memory.read_ofBytes r j).trans (List.getD_eq_default _ _ hj)

theorem CommandEffect.buffersOk {u : State} (heffect : CommandEffect s u) : BuffersOk u := by
  cases heffect with
  | none => exact h
  | st | chain | gfr | consumeKey | expand => exact h.of_same rfl rfl rfl rfl
  | pad hlen => exact buffersOk_pad h hlen _
  | cut n hn => exact buffersOk_cutResult h hn
  | store n b hn => exact buffersOk_store h b hn
  | noResult | messageFailed => exact h.of_noResult rfl rfl rfl rfl
  | message r hr => exact buffersOk_message h hr
  | cleared => exact ⟨rfl, rfl, rfl, rfl, Nat.zero_le _, fun _ _ => rfl⟩

theorem HostEffect.buffersOk {u : State} (heffect : HostEffect s u) : BuffersOk u := by
  cases heffect with
  | none => exact h
  | registers => exact h.of_same rfl rfl rfl rfl
  | reset => exact (buffersOk_resetFor s.cfg).of_same rfl rfl rfl rfl
  | input a v ha =>
    exact h.of_in (Memory.wf_writeWord a v h.inWf) (Memory.below_writeBytes _ h.inBelow ha) rfl rfl rfl
  | launched v hidle =>
    obtain ⟨-, -, hlaunch⟩ | ⟨-, -, hlaunch⟩ := launch_cases s v
    · rw [hlaunch]; exact h.of_same rfl rfl rfl rfl
    · rw [hlaunch]; exact h.of_same rfl rfl rfl rfl

end

/-! ## The schedule's invariant (spec/10_state.md R28, spec/41_key_schedule.md R157) -/

section
variable {s t : State}

theorem ScheduleOk.of_same (h : ScheduleOk s) (hsame : SameSchedule s t) : ScheduleOk t := by
  obtain ⟨hw, hvalid, hvar⟩ := hsame
  refine ⟨fun hv => ?_, fun hv => ?_⟩
  · rw [hw, hvar]
    exact h.valid (hvalid ▸ hv)
  · rw [hw, hvar]
    exact h.invalid (hvalid ▸ hv)

/-- No schedule: SCHED_VALID, SCHED_VAR and W are zero. -/
theorem scheduleOk_of_zero (hvalid : t.schedValid = false) (hvar : t.schedVar = 0) (hw : t.w = Vector.replicate 60 0) :
    ScheduleOk t where
  valid hv := nomatch hvalid.symm.trans hv
  invalid _ := ⟨hvar, fun i => by simp [hw]⟩

theorem CommandEffect.scheduleOk (h : ScheduleOk s) (heffect : CommandEffect s t) : ScheduleOk t := by
  cases heffect with
  | none => exact h
  | st | chain | gfr | consumeKey | pad | cut | store | noResult => exact h.of_same ⟨rfl, rfl, rfl⟩
  | expand x k w hk hw => exact ⟨fun _ => ⟨x, k, hk, rfl, hw⟩, nofun⟩
  | messageFailed | message | cleared => exact scheduleOk_of_zero rfl rfl rfl

theorem HostEffect.scheduleOk (h : ScheduleOk s) (heffect : HostEffect s t) : ScheduleOk t := by
  cases heffect with
  | none => exact h
  | registers | input => exact h.of_same ⟨rfl, rfl, rfl⟩
  | reset => exact scheduleOk_of_zero rfl rfl rfl
  | launched v hidle =>
    obtain ⟨-, -, hlaunch⟩ | ⟨-, -, hlaunch⟩ := launch_cases s v
    · rw [hlaunch]; exact h.of_same ⟨rfl, rfl, rfl⟩
    · rw [hlaunch]; exact h.of_same ⟨rfl, rfl, rfl⟩

end

/-! ## The flags' invariant (spec/10_state.md R35, R62) -/

section
variable {s t : State}

/-- A completion, without an error or with one, meets the invariant whatever came before it. -/
theorem flagsOk_completeFlags (u : State) {code : Byte} (hcode : code = 0 ∨ ∃ e, code = errorCode e) :
    FlagsOk (completeFlags u code) where
  busySeq := by simp
  running := nofun
  codes := hcode.imp id fun he => ⟨rfl, he⟩

theorem flagsOk_of_idle (hbusy : t.busy = false) (hseq : t.seq = .idle) (herr : t.errcode = 0) : FlagsOk t where
  busySeq := by simp [hbusy, hseq]
  running h := nomatch hbusy.symm.trans h
  codes := .inl herr

theorem FlagsOk.of_same (h : FlagsOk s) (hbusy : t.busy = s.busy) (hdone : t.done = s.done)
    (herr : t.errcode = s.errcode) (hcmd : t.lastcmd = s.lastcmd) (hseq : t.seq = .idle ↔ s.seq = .idle) :
    FlagsOk t where
  busySeq := by rw [hbusy, ne_eq, hseq]; exact h.busySeq
  running hb := by rw [hdone, herr, hcmd]; exact h.running (hbusy ▸ hb)
  codes := by rw [hdone, herr]; exact h.codes

theorem flagsOk_launch (s : State) (v : Word) : FlagsOk (launch s v) := by
  obtain ⟨e, -, hlaunch⟩ | ⟨i, hlegal, hlaunch⟩ := launch_cases s v
  · rw [hlaunch]
    exact flagsOk_completeFlags _ (.inr ⟨_, rfl⟩)
  · rw [hlaunch]
    exact ⟨by simp, fun _ => ⟨rfl, rfl, i, hlegal⟩, .inl rfl⟩

theorem HostEffect.flagsOk (h : FlagsOk s) (heffect : HostEffect s t) : FlagsOk t := by
  cases heffect with
  | none => exact h
  | launched v hidle => exact flagsOk_launch s v
  | registers | input => exact h.of_same rfl rfl rfl rfl Iff.rfl
  | reset => exact flagsOk_of_idle rfl rfl rfl

theorem serve_flagsOk (h : FlagsOk s) : FlagsOk (serve s) := by
  obtain ⟨u, p, a, heffect, hserve⟩ := serve_effect s
  rw [hserve]
  exact (heffect.flagsOk h).of_same rfl rfl rfl rfl Iff.rfl

end

/-! ## The end of a command -/

theorem EndsWith.of_effect {s u : State} (h : CommandEffect s u) (code : Byte) :
    EndsWith s (completeFlags u code) code :=
  ⟨rfl, rfl, rfl, rfl, h.lastcmd_eq⟩

/-- A busy engine that serves a host operation goes on running, or is reset (spec/20_memory.md R85). -/
theorem serve_of_busy {s : State} (hbusy : s.busy = true) :
    (serve s).busy = false ∨ ((serve s).busy = true ∧ (serve s).seq = s.seq) := by
  obtain ⟨u, p, a, heffect, hserve⟩ := serve_effect s
  rw [hserve]
  cases heffect with
  | none | registers | input => exact .inr ⟨hbusy, rfl⟩
  | launched v hidle => exact nomatch hbusy.symm.trans hidle
  | reset => exact .inl rfl

theorem run_succ_of_next {s u : State} (h : step s = .next u) (k : Nat) :
    Host.Core.run core (k + 1) s = Host.Core.run core k u := by
  have hcore : core.step s = .next u := h
  simp only [Host.Core.run, hcore]

/-! ## The obligations -/

/-- Settles O12, effect by effect of a command and of the host. -/
theorem stepKeepsBufferInvariant : Obligations.StepKeepsBufferInvariant := fun _ _ =>
  step_keeps (fun _ _ _ hs heffect => (heffect.buffersOk hs).of_same rfl rfl rfl rfl)
    (fun _ _ hs heffect => heffect.buffersOk hs) fun _ _ _ _ hs => hs.of_same rfl rfl rfl rfl

/-- Settles O13: EXPAND alone writes a schedule, and what wipes W clears SCHED_VALID too. -/
theorem stepKeepsScheduleInvariant : Obligations.StepKeepsScheduleInvariant := fun _ _ =>
  step_keeps (fun _ _ _ hs heffect => (heffect.scheduleOk hs).of_same ⟨rfl, rfl, rfl⟩)
    (fun _ _ hs heffect => heffect.scheduleOk hs) fun _ _ _ _ hs => hs.of_same ⟨rfl, rfl, rfl⟩

/-- Settles O14: a step completes a command, or counts SEQ down without ending it and serves the host. -/
theorem stepKeepsFlagInvariant : Obligations.StepKeepsFlagInvariant := by
  intro s t hs hstep
  obtain ⟨-, hfinish⟩ | ⟨n, hseq, rfl⟩ | ⟨-, rfl⟩ := step_cases hstep
  · obtain ⟨u, code, hnext, -, hcode⟩ := finish_completes s
    obtain rfl := Host.Outcome.next.inj (hfinish.symm.trans hnext)
    exact flagsOk_completeFlags u hcode
  · exact serve_flagsOk (hs.of_same rfl rfl rfl rfl (by simp [hseq]))
  · exact serve_flagsOk hs

/-- Settles O11: in the reset state both buffers, W and the flags are zero. -/
theorem resetStateMeetsInvariants : Obligations.ResetStateMeetsInvariants :=
  ⟨buffersOk_resetFor Config.default, scheduleOk_of_zero rfl rfl rfl, flagsOk_of_idle rfl rfl rfl⟩

/-- Settles O8: every command completes, and its effect leaves the host's side and LASTCMD alone. -/
theorem everyCommandCompletes : Obligations.EveryCommandCompletes := by
  intro i s
  obtain ⟨u, code, hnext, heffect, hcode⟩ := exec_completes s i
  exact ⟨_, code, hnext, EndsWith.of_effect heffect code, heffect.sameHost, hcode⟩

/-- Settles O9, by induction on the count in SEQ: each step counts down by one, or reset ends the command early. -/
theorem runningCommandTerminates : Obligations.RunningCommandTerminates := by
  intro n
  induction n with
  | zero =>
    intro s hseq
    obtain ⟨u, code, hnext, -, -⟩ := finish_completes s
    have hstep : step s = .next (completeFlags u code) := by rw [step, hseq]; exact hnext
    exact ⟨1, Nat.le_refl _, _, run_succ_of_next hstep 0, rfl⟩
  | succ n ih =>
    intro s hseq
    cases hbusy : s.busy with
    | false => exact ⟨0, Nat.zero_le _, s, rfl, hbusy⟩
    | true =>
      have hstep : step s = .next (serve { s with seq := .running n }) := by rw [step, hseq]
      obtain hreset | ⟨-, hcount⟩ := serve_of_busy (s := { s with seq := .running n }) hbusy
      · exact ⟨1, by omega, _, run_succ_of_next hstep 0, hreset⟩
      · obtain ⟨k, hk, t, hrun, ht⟩ := ih _ hcount
        exact ⟨k + 1, by omega, t, (run_succ_of_next hstep k).trans hrun, ht⟩

end Sys2Proof.Machine

/-! PROOFS. What a step does for the host, and the target of every register and buffer word; then the obligations O5,
O6, O17 and O18 about steps, and O21, O22 and O23 about the registers of spec/10_state.md section 2. -/

namespace Sys2Proof.Machine

/-! ## Steps -/

theorem finish_of_legal {s : State} {i : Instr} (h : decode s.lastcmd = .ok i) : finish s = exec i s := by
  rw [finish, h]

theorem step_of_completing {s : State} (h : s.seq = .running 0) : step s = finish s := by
  rw [step, h]

/-- A legal word written is running (spec/30_encoding.md R101). -/
theorem launch_of_legal (s : State) {v : Word} {i : Instr} (h : decode v = .ok i) :
    launch s v = { launchFlags s v with seq := .running (s.delays.headD 0), delays := s.delays.tail } := by
  obtain ⟨_, hillegal, -⟩ | ⟨_, -, hlaunch⟩ := launch_cases s v
  · exact nomatch h.symm.trans hillegal
  · exact hlaunch

/-! ## The target of a register or buffer word (spec/10_state.md R40, spec/20_memory.md R70) -/

section
variable (maxLen : Nat) {a : Nat}

theorem targetAt_chain (hlo : 0x060 ≤ a) (hhi : a < 0x070) : targetAt maxLen a = some (.chain ((a - 0x060) / 4)) := by
  unfold targetAt
  iterate 10 rw [if_neg (by omega)]
  exact if_pos ⟨hlo, hhi⟩

theorem targetAt_w (hlo : 0x100 ≤ a) (hhi : a < 0x1F0) : targetAt maxLen a = some (.w ((a - 0x100) / 4)) := by
  unfold targetAt
  iterate 11 rw [if_neg (by omega)]
  exact if_pos ⟨hlo, hhi⟩

theorem targetAt_in (hlo : 0x100000 ≤ a) (hhi : a < 0x100000 + maxLen) :
    targetAt maxLen a = some (.inWord (a - 0x100000)) := by
  unfold targetAt
  iterate 12 rw [if_neg (by omega)]
  exact if_pos ⟨hlo, hhi⟩

theorem targetAt_out (hlo : 0x200000 ≤ a) (hhi : a < 0x200000 + maxLen) (hmax : maxLen ≤ 2 ^ 20) :
    targetAt maxLen a = some (.outWord (a - 0x200000)) := by
  unfold targetAt
  iterate 12 rw [if_neg (by omega)]
  rw [if_neg (by unfold inBase; omega)]
  exact if_pos ⟨hlo, hhi⟩

end

section
variable (s : State) {k : Nat}

theorem accessTarget_len : accessTarget s 0x00000C 4 = some .len := rfl

theorem accessTarget_outlen : accessTarget s 0x000010 4 = some .outlen := rfl

theorem accessTarget_gfr : accessTarget s 0x000014 4 = some .gfr := rfl

theorem accessTarget_lastcmd : accessTarget s 0x000018 4 = some .lastcmd := rfl

theorem accessTarget_iv (hk : k < 4) : accessTarget s (BitVec.ofNat 24 (0x040 + 4 * k)) 4 = some (.iv k) := by
  rw [accessTarget_ofNat s (by omega) (by omega)]
  interval_cases k <;> rfl

theorem accessTarget_st (k : Fin 4) : accessTarget s (BitVec.ofNat 24 (0x050 + 4 * k.val)) 4 = some (.st k) := by
  rw [accessTarget_ofNat s (by omega) (by omega)]
  fin_cases k <;> rfl

theorem accessTarget_chain (hk : k < 4) : accessTarget s (BitVec.ofNat 24 (0x060 + 4 * k)) 4 = some (.chain k) := by
  rw [accessTarget_ofNat s (by omega) (by omega), targetAt_chain _ (by omega) (by omega), Nat.add_sub_cancel_left,
    Nat.mul_div_cancel_left _ (by decide)]

theorem accessTarget_w (hk : k < 60) : accessTarget s (BitVec.ofNat 24 (0x100 + 4 * k)) 4 = some (.w k) := by
  rw [accessTarget_ofNat s (by omega) (by omega), targetAt_w _ (by omega) (by omega), Nat.add_sub_cancel_left,
    Nat.mul_div_cancel_left _ (by decide)]

theorem accessTarget_in (hk : 4 * k < s.maxLen) :
    accessTarget s (BitVec.ofNat 24 (0x100000 + 4 * k)) 4 = some (.inWord (4 * k)) := by
  obtain ⟨-, hmax, -⟩ := s.maxLen_range
  rw [accessTarget_ofNat s (by omega) (by omega), targetAt_in _ (by omega) (by omega),
    Nat.add_sub_cancel_left]

theorem accessTarget_out (hk : 4 * k < s.maxLen) :
    accessTarget s (BitVec.ofNat 24 (0x200000 + 4 * k)) 4 = some (.outWord (4 * k)) := by
  obtain ⟨-, hmax, -⟩ := s.maxLen_range
  rw [accessTarget_ofNat s (by omega) (by omega), targetAt_out _ (by omega) (by omega) hmax,
    Nat.add_sub_cancel_left]

/-- An address of the read-only registers and of OUT has a target that a write leaves alone. -/
theorem accessTarget_readOnly {addr : Addr} (h4 : addr.toNat % 4 = 0)
    (h : addr = 0x000004 ∨ (0x010 ≤ addr.toNat ∧ addr.toNat ≤ 0x018) ∨ (0x060 ≤ addr.toNat ∧ addr.toNat ≤ 0x06C) ∨
      (0x100 ≤ addr.toNat ∧ addr.toNat ≤ 0x1EC) ∨
      (0x200000 ≤ addr.toNat ∧ addr.toNat < 0x200000 + s.maxLen)) :
    ∃ t, accessTarget s addr 4 = some t ∧ ∀ v, writeTarget s v t = s := by
  obtain ⟨-, hmax, -⟩ := s.maxLen_range
  have htarget : accessTarget s addr 4 = targetAt s.maxLen addr.toNat := if_pos ⟨rfl, h4⟩
  rw [htarget]
  obtain rfl | ⟨hlo, hhi⟩ | ⟨hlo, hhi⟩ | ⟨hlo, hhi⟩ | ⟨hlo, hhi⟩ := h
  · exact ⟨.status, rfl, fun _ => rfl⟩
  · obtain ha | ha | ha : addr.toNat = 0x010 ∨ addr.toNat = 0x014 ∨ addr.toNat = 0x018 := by omega
    · exact ⟨.outlen, by rw [ha]; rfl, fun _ => rfl⟩
    · exact ⟨.gfr, by rw [ha]; rfl, fun _ => rfl⟩
    · exact ⟨.lastcmd, by rw [ha]; rfl, fun _ => rfl⟩
  · exact ⟨_, targetAt_chain _ hlo (by omega), fun _ => rfl⟩
  · exact ⟨_, targetAt_w _ hlo (by omega), fun _ => rfl⟩
  · exact ⟨_, targetAt_out _ hlo hhi hmax, fun _ => rfl⟩

end

/-! ## A word stored in S or in IN -/

section
variable (m : Mat) (k : Fin 4) (v : Word)

theorem setColumn_getElem (r c : Fin 4) : (setColumn m k v)[r][c] = if c = k then byteOf v r.val else m[r][c] := by
  simp [setColumn]

theorem columnWord_setColumn : columnWord (setColumn m k v) k = v := by
  simp [columnWord, setColumn, be32_byteOf]

end

section
variable {m : Memory} (a : Nat) (v : Word) (h : Memory.wf m = true)
include h

theorem Memory.read_writeWord_byte {j : Nat} (hj : j < 4) :
    Memory.read (Memory.writeWord m a v) (a + j) = byteOf v j := by
  have hlength : (wordBytes v).length = 4 := rfl
  rw [Memory.writeWord, Memory.read_writeBytes _ _ _ h, if_pos (by omega), Nat.add_sub_cancel_left]
  interval_cases j <;> rfl

theorem Memory.readWord_writeWord : Memory.readWord (Memory.writeWord m a v) a = v := by
  have byte {j : Nat} (hj : j < 4) := Memory.read_writeWord_byte a v h hj
  have byte0 : Memory.read (Memory.writeWord m a v) a = byteOf v 0 := byte (j := 0) (by decide)
  rw [Memory.readWord, byte0, byte (by decide), byte (by decide), byte (by decide), be32_byteOf]

end

theorem Memory.read_writeWord_of_outside (m : Memory) (v : Word) {a x : Nat} (hx : x < a ∨ a + 4 ≤ x) :
    Memory.read (Memory.writeWord m a v) x = Memory.read m x :=
  Memory.read_writeBytes_of_outside hx

/-! ## A word written and read back -/

/-- A write and a read of one address give the word, when its target stores the word and hides nothing. -/
theorem busRead_busWrite {s : State} {addr : Addr} {v : Word} {t : Target} (htarget : accessTarget s addr 4 = some t)
    (hidle : s.busy = false) (hmap : accessTarget (writeTarget s v t) addr 4 = some t)
    (hstays : (writeTarget s v t).busy = false) (hvalue : targetValue (writeTarget s v t) t = v) :
    busRead (busWrite s addr 4 v) addr 4 = .data v := by
  rw [busWrite_of_idle v htarget hidle, busRead_of_idle hmap hstays, hvalue]

/-- LEN, the words of IV and the columns of S read back what was written (spec/10_state.md R44, R49, R50). -/
theorem busRead_busWrite_register {s : State} {addr : Addr} (v : Word) (hidle : s.busy = false)
    (h4 : addr.toNat % 4 = 0) (haddr : addr = 0x00000C ∨ (0x040 ≤ addr.toNat ∧ addr.toNat ≤ 0x05C)) :
    busRead (busWrite s addr 4 v) addr 4 = .data v := by
  obtain rfl | ⟨hlo, hhi⟩ := haddr
  · exact busRead_busWrite (accessTarget_len s) hidle (accessTarget_len _) hidle rfl
  · have hnat (a : Nat) (ha : addr.toNat = a) : addr = BitVec.ofNat 24 a := by
      rw [← ha, BitVec.ofNat_toNat, BitVec.setWidth_eq]
    rcases Nat.lt_or_ge addr.toNat 0x050 with hiv | hst
    · obtain ⟨k, hk, ha⟩ : ∃ k < 4, addr.toNat = 0x040 + 4 * k := ⟨(addr.toNat - 0x040) / 4, by omega, by omega⟩
      rw [hnat _ ha]
      exact busRead_busWrite (accessTarget_iv s hk) hidle (accessTarget_iv _ hk) hidle
        (wordAt_setWordAt s.iv v (by omega))
    · obtain ⟨k, ha⟩ : ∃ k : Fin 4, addr.toNat = 0x050 + 4 * k.val :=
        ⟨⟨(addr.toNat - 0x050) / 4, by omega⟩, by dsimp only; omega⟩
      rw [hnat _ ha]
      exact busRead_busWrite (accessTarget_st s k) hidle (accessTarget_st _ k) hidle (columnWord_setColumn s.st k v)

/-! ## The obligations -/

/-- Settles O5: a step with no host operation left is the completion, and the completion runs LASTCMD's command. -/
theorem stepRunsDecodedInstruction : Obligations.StepRunsDecodedInstruction := fun _ _ hseq hlegal =>
  (step_of_completing hseq).trans (finish_of_legal hlegal)

/-- Settles O6: the write is the launch, and with no delay the next step completes what was launched. -/
theorem commandWriteLaunchesAndRuns : Obligations.CommandWriteLaunchesAndRuns := by
  intro s v i rest hseq hidle hpending hlegal
  have hwrite : busWrite s 0x000000 4 v =
      { launchFlags s v with seq := .running (s.delays.headD 0), delays := s.delays.tail } :=
    (busWrite_of_idle v (accessTarget_cmd s) hidle).trans (launch_of_legal s hlegal)
  have hstep : step s = .next (serve s) := by rw [step, hseq]
  rw [serve_write hpending, hwrite, writeAnswer_of_mapped (accessTarget_cmd s)] at hstep
  refine ⟨_, hstep, rfl, rfl, rfl, rfl, rfl, rfl, rfl, rfl, ?_, fun hdelay => ?_⟩
  · exact onlyFlags_completeFlags s 0
  · exact stepRunsDecodedInstruction _ i (congrArg Seq.running hdelay) hlegal

/-- Settles O17: the read's answer is the bus's, and the host's side and SEQ are all that is written. -/
theorem hostReadChangesNothing : Obligations.HostReadChangesNothing := by
  intro s addr width rest hpending hseq
  have hserve := serve_read (s := { s with seq := seqServed s.seq }) hpending
  exact ⟨_, (step_of_not_completing hseq).trans (congrArg _ hserve), rfl, rfl, rfl, rfl⟩

/-- Settles O18: the write is the bus's, which a busy engine ignores. -/
theorem hostWriteTakesEffect : Obligations.HostWriteTakesEffect := by
  intro s addr width v rest hpending hseq
  have hserve := serve_write (s := { s with seq := seqServed s.seq }) hpending
  have hstep := (step_of_not_completing hseq).trans (congrArg _ hserve)
  refine ⟨hstep, fun hbusy => ?_, fun hwidth h4 hmapped => ?_⟩
  · rw [hstep, busWrite_of_busy (s := { s with seq := seqServed s.seq }) addr width v hbusy]
    rfl
  · subst hwidth
    obtain ⟨t, ht⟩ := exists_accessTarget h4 hmapped
    exact writeAnswer_of_mapped ht

/-- Settles O21, register by register: each address has its target, and an idle engine answers the target's value. -/
theorem idleReadReturnsRegister : Obligations.IdleReadReturnsRegister := by
  intro s hidle
  refine ⟨busRead_of_idle (accessTarget_cmd s) hidle, busRead_of_idle (accessTarget_len s) hidle,
    busRead_of_idle (accessTarget_outlen s) hidle, busRead_of_idle (accessTarget_gfr s) hidle,
    busRead_of_idle (accessTarget_lastcmd s) hidle, fun k hk => busRead_of_idle (accessTarget_iv s hk) hidle,
    fun k => busRead_of_idle (accessTarget_st s k) hidle, fun k hk => busRead_of_idle (accessTarget_chain s hk) hidle,
    fun k => ?_, fun k hk => busRead_of_idle (accessTarget_in s hk) hidle,
    fun k hk => busRead_of_idle (accessTarget_out s hk) hidle⟩
  simpa [targetValue, Vector.getD] using busRead_of_idle (accessTarget_w s k.isLt) hidle

/-- Settles O22: LEN, IV, S and IN are where such a word goes, each as its own store says. -/
theorem writtenWordReadsBack : Obligations.WrittenWordReadsBack := by
  intro s v hidle
  refine ⟨fun addr h4 haddr => busRead_busWrite_register v hidle h4 haddr,
    busWrite_of_idle v (accessTarget_len s) hidle, fun k hk => ?_, fun k => ?_, fun hok k hk => ?_⟩
  · refine ⟨_, busWrite_of_idle v (accessTarget_iv s hk) hidle, fun j hj => ?_, fun j hj => ?_, rfl⟩
    · exact setWordAt_getD_byte s.iv v (by omega) hj
    · exact setWordAt_getD_of_outside s.iv v hj
  · refine ⟨_, busWrite_of_idle v (accessTarget_st s k) hidle, fun r => ?_, fun r c hc => ?_, rfl⟩
    · exact (setColumn_getElem s.st k v r k).trans (if_pos rfl)
    · exact (setColumn_getElem s.st k v r c).trans (if_neg hc)
  · have hwrite := busWrite_of_idle v (accessTarget_in s hk) hidle
    refine ⟨_, hwrite, ?_, fun j hj => ?_, fun a ha => ?_, rfl⟩
    · rw [← hwrite]
      exact busRead_busWrite (accessTarget_in s hk) hidle (accessTarget_in _ hk) hidle
        (Memory.readWord_writeWord _ v hok.inWf)
    · exact Memory.read_writeWord_byte _ v hok.inWf hj
    · exact Memory.read_writeWord_of_outside _ v ha

/-- Settles O23: these targets are mapped, and no write to them has an effect. -/
theorem readOnlyWritesChangeNothing : Obligations.ReadOnlyWritesChangeNothing := by
  intro s addr v h4 haddr
  obtain ⟨t, htarget, hsame⟩ := accessTarget_readOnly s h4 haddr
  refine ⟨?_, writeAnswer_of_mapped htarget⟩
  obtain hnone | ⟨t', htarget', -, hwrite⟩ := busWrite_cases s addr 4 v
  · exact hnone
  · obtain rfl := Option.some.inj (htarget.symm.trans htarget')
    rw [hwrite, hsame]

end Sys2Proof.Machine

/-! PROOFS. The multiplier is linear in both operands, so a field law holds once it holds on the powers of x; then the
obligations O25, O26 and O27 about spec/40_gf_tables.md. -/

namespace Sys2Proof.Machine

/-! ## Linearity -/

theorem gfDouble_xor (a b : Byte) : gfDouble (a ^^^ b) = gfDouble a ^^^ gfDouble b := by
  have reduce (p : Byte) : gfDouble p = polyMod (p.setWidth 16 <<< 1) :=
    (polyMod_shiftLeft p (i := 1) (by decide)).symm
  rw [reduce, reduce, reduce, BitVec.setWidth_xor, BitVec.shiftLeft_xor_distrib, polyMod_xor]

theorem gfSteps_xor_left (n : Nat) (p q a b c : Byte) :
    gfSteps n (p ^^^ q) (a ^^^ b) c = gfSteps n p a c ^^^ gfSteps n q b c := by
  induction n generalizing p q a b c with
  | zero => rfl
  | succ n ih =>
    simp only [gfSteps_succ, gfDouble_xor, ← ih]
    split
    · rw [show p ^^^ q ^^^ (a ^^^ b) = p ^^^ a ^^^ (q ^^^ b) by ac_rfl]
    · rfl

theorem gfSteps_xor_right (n : Nat) (p q a b c : Byte) :
    gfSteps n (p ^^^ q) a (b ^^^ c) = gfSteps n p a b ^^^ gfSteps n q a c := by
  induction n generalizing p q a b c with
  | zero => rfl
  | succ n ih =>
    have addTwice : p ^^^ q = p ^^^ a ^^^ (q ^^^ a) := by
      rw [show p ^^^ a ^^^ (q ^^^ a) = p ^^^ q ^^^ (a ^^^ a) by ac_rfl, BitVec.xor_self, BitVec.xor_zero]
    simp only [gfSteps_succ, BitVec.ushiftRight_xor_distrib, ← ih, BitVec.getLsbD_xor]
    congr 1
    cases b.getLsbD 0 <;> cases c.getLsbD 0
    case false.false => rfl
    case false.true => exact BitVec.xor_assoc ..
    case true.false => exact (show p ^^^ q ^^^ a = p ^^^ a ^^^ q by ac_rfl)
    case true.true => exact addTwice

theorem gfMul_xor_left (a b c : Byte) : gfMul (a ^^^ b) c = gfMul a c ^^^ gfMul b c := gfSteps_xor_left 8 0 0 a b c

theorem gfMul_xor_right (a b c : Byte) : gfMul a (b ^^^ c) = gfMul a b ^^^ gfMul a c := gfSteps_xor_right 8 0 0 a b c

theorem gfMul_zero_right (a : Byte) : gfMul a 0 = 0 := by
  have h := gfMul_xor_right a 0 0
  rwa [BitVec.xor_self, BitVec.xor_self] at h

theorem gfMul_zero_left (a : Byte) : gfMul 0 a = 0 := by
  have h := gfMul_xor_left 0 0 a
  rwa [BitVec.xor_self, BitVec.xor_self] at h

/-- What holds of 0 and of the powers of x, and passes to sums, holds of every byte. -/
theorem byte_induction {P : Byte → Prop} (zero : P 0) (add : ∀ a b, P a → P b → P (a ^^^ b))
    (power : ∀ i < 8, P (1#8 <<< i)) (a : Byte) : P a := by
  have hsum : ∀ b : Byte, (List.range 8).foldl (fun p i => if b.getLsbD i then p ^^^ (1#8 <<< i) else p) 0 = b := by
    decide +kernel
  have hfold (l : List Nat) (hl : ∀ i ∈ l, i < 8) (p : Byte) (hp : P p) :
      P (l.foldl (fun p i => if a.getLsbD i then p ^^^ (1#8 <<< i) else p) p) := by
    induction l generalizing p with
    | nil => exact hp
    | cons i l ih =>
      refine ih (fun j hj => hl j (List.mem_cons_of_mem i hj)) _ ?_
      dsimp only
      split
      · exact add p _ hp (power i (hl i List.mem_cons_self))
      · exact hp
  rw [← hsum a]
  exact hfold _ (fun _ => List.mem_range.mp) 0 zero

/-! ## The field laws (spec/40_gf_tables.md R133) -/

theorem gfMul_comm (a b : Byte) : gfMul a b = gfMul b a := by
  refine byte_induction (P := fun a => gfMul a b = gfMul b a) ?_ (fun p q hp hq => ?_) (fun i hi => ?_) a
  · rw [gfMul_zero_left, gfMul_zero_right]
  · rw [gfMul_xor_left, gfMul_xor_right, hp, hq]
  refine byte_induction (P := fun b => gfMul (1#8 <<< i) b = gfMul b (1#8 <<< i)) ?_ (fun p q hp hq => ?_)
    (fun j hj => ?_) b
  · rw [gfMul_zero_left, gfMul_zero_right]
  · rw [gfMul_xor_left, gfMul_xor_right, hp, hq]
  · have powers : ∀ i < 8, ∀ j < 8, gfMul (1#8 <<< i) (1#8 <<< j) = gfMul (1#8 <<< j) (1#8 <<< i) := by decide +kernel
    exact powers i hi j hj

theorem gfMul_assoc (a b c : Byte) : gfMul (gfMul a b) c = gfMul a (gfMul b c) := by
  refine byte_induction (P := fun a => gfMul (gfMul a b) c = gfMul a (gfMul b c)) ?_ (fun p q hp hq => ?_)
    (fun i hi => ?_) a
  · rw [gfMul_zero_left, gfMul_zero_left, gfMul_zero_left]
  · rw [gfMul_xor_left, gfMul_xor_left, gfMul_xor_left, hp, hq]
  refine byte_induction (P := fun b => gfMul (gfMul (1#8 <<< i) b) c = gfMul (1#8 <<< i) (gfMul b c)) ?_
    (fun p q hp hq => ?_) (fun j hj => ?_) b
  · rw [gfMul_zero_right, gfMul_zero_left, gfMul_zero_right]
  · rw [gfMul_xor_right, gfMul_xor_left, gfMul_xor_left, gfMul_xor_right, hp, hq]
  refine byte_induction
    (P := fun c => gfMul (gfMul (1#8 <<< i) (1#8 <<< j)) c = gfMul (1#8 <<< i) (gfMul (1#8 <<< j) c)) ?_
    (fun p q hp hq => ?_) (fun k hk => ?_) c
  · rw [gfMul_zero_right, gfMul_zero_right, gfMul_zero_right]
  · rw [gfMul_xor_right, gfMul_xor_right, gfMul_xor_right, hp, hq]
  · have powers : ∀ i < 8, ∀ j < 8, ∀ k < 8,
        gfMul (gfMul (1#8 <<< i) (1#8 <<< j)) (1#8 <<< k) = gfMul (1#8 <<< i) (gfMul (1#8 <<< j) (1#8 <<< k)) := by
      decide +kernel
    exact powers i hi j hj k hk

theorem gfMul_one_right (a : Byte) : gfMul a 1 = a := by
  have hsingle : polyMul a 1 = 0#16 ^^^ (a.setWidth 16 <<< 0) := rfl
  rw [gfMul_eq_polyMod, hsingle, BitVec.zero_xor, BitVec.shiftLeft_zero, polyMod_setWidth]

theorem gfMul_one_left (a : Byte) : gfMul 1 a = a := by rw [gfMul_comm, gfMul_one_right]

theorem gfMul_two (a : Byte) : gfMul 2 a = gfDouble a := by
  have hsingle : polyMul a 2 = 0#16 ^^^ (a.setWidth 16 <<< 1) := rfl
  rw [gfMul_comm, gfMul_eq_polyMod, hsingle, BitVec.zero_xor, polyMod_shiftLeft a (by decide), Function.iterate_one]

theorem gfDouble_eq (a : Byte) : gfDouble a = (a <<< 1) ^^^ (if a.getLsbD 7 then 0x1B else 0x00) := by
  unfold gfDouble
  split
  · rfl
  · exact (BitVec.xor_zero).symm

/-- The multiplicative inverse `a^254` of a byte, and 0 for 0: `254 = 2 + 4 + 8 + 16 + 32 + 64 + 128`. -/
def gfInv (a : Byte) : Byte := (List.range 7).foldl (fun p i => gfMul p ((fun q => gfMul q q)^[i + 1] a)) 1

theorem gfMul_gfInv : ∀ a : Byte, a ≠ 0 → gfMul a (gfInv a) = 1 := by decide +kernel

/-- No zero divisors: an inverse of the first operand cancels it. -/
theorem gfMul_ne_zero {a b : Byte} (ha : a ≠ 0) (hb : b ≠ 0) : gfMul a b ≠ 0 := fun h => by
  refine hb ?_
  calc b = gfMul (gfMul a (gfInv a)) b := by rw [gfMul_gfInv a ha, gfMul_one_left]
    _ = gfMul (gfInv a) (gfMul a b) := by rw [gfMul_comm a, gfMul_assoc]
    _ = 0 := by rw [h, gfMul_zero_right]

/-! ## The tables (spec/40_gf_tables.md R135 to R137) -/

/-- The affine map of the S-box: five rotations of the byte added, and 0x63 (section 3). -/
def affine (x : Byte) : Byte :=
  x ^^^ x.rotateLeft 1 ^^^ x.rotateLeft 2 ^^^ x.rotateLeft 3 ^^^ x.rotateLeft 4 ^^^ 0x63

theorem invSbox_sbox : ∀ b : Byte, invSbox (sbox b) = b := by decide +kernel

theorem sbox_invSbox : ∀ b : Byte, sbox (invSbox b) = b := by decide +kernel

theorem sbox_ne_self : ∀ b : Byte, sbox b ≠ b := by decide +kernel

theorem sbox_eq_affine : ∀ b : Byte, sbox b = affine (gfInv b) := by decide +kernel

theorem rc_succ {j : Nat} (hj : 1 ≤ j) : rc (j + 1) = gfMul 0x02 (rc j) := by
  obtain ⟨i, rfl⟩ := Nat.exists_eq_add_of_le' hj
  rfl

/-! ## The obligations -/

/-- Settles O25: the laws from linearity, and each small multiple from the sum of powers of x that it is. -/
theorem gfMulFieldLaws : Obligations.GfMulFieldLaws := by
  intro a b c
  have four : gfMul 0x04 a = gfMul 0x02 (gfMul 0x02 a) := gfMul_assoc 0x02 0x02 a
  have eight : gfMul 0x08 a = gfMul 0x02 (gfMul 0x04 a) := gfMul_assoc 0x02 0x04 a
  have sum2 (p q : Byte) : gfMul (p ^^^ q) a = gfMul p a ^^^ gfMul q a := gfMul_xor_left p q a
  have plusOne (p : Byte) : gfMul (p ^^^ 1) a = gfMul p a ^^^ a := by rw [sum2, gfMul_one_left]
  refine ⟨gfMul_comm a b, gfMul_assoc a b c, gfMul_xor_right a b c, gfMul_one_right a, gfMul_zero_right a,
    gfMul_ne_zero, (gfMul_two a).trans (gfDouble_eq a), plusOne 0x02, plusOne 0x08, ?_, ?_, ?_, four, eight⟩
  · rw [← sum2, ← plusOne, show (0x08 ^^^ 0x02 ^^^ 1 : Byte) = 0x0B by decide]
  · rw [← sum2, ← plusOne, show (0x08 ^^^ 0x04 ^^^ 1 : Byte) = 0x0D by decide]
  · rw [← sum2, ← sum2, show (0x08 ^^^ 0x04 ^^^ 0x02 : Byte) = 0x0E by decide]

/-- Settles O26: table entry by table entry, the inverse in the field being `gfInv`. -/
theorem substitutionTables : Obligations.SubstitutionTables := by
  refine fun b => ⟨invSbox_sbox b, sbox_invSbox b, sbox_ne_self b, gfInv b, ?_, sbox_eq_affine b⟩
  split
  · next hb => rw [hb]; decide +kernel
  · next hb => exact gfMul_gfInv b hb

/-- Settles O27: `rc` doubles, and `Rcon` holds it in its high byte. -/
theorem roundConstantsDouble : Obligations.RoundConstantsDouble := by
  refine ⟨rfl, fun j hj => ?_, by decide +kernel⟩
  rw [rcon, rcon, (byteOf_be32 _ _ _ _).1, rc_succ hj]

end Sys2Proof.Machine

/-! PROOFS. Each transformation undoes its inverse, so the block transforms do, and the block commands are runs of the
primitive ones; then the obligations O33, O36, O37, O32 and O35 about spec/42_round_pipeline.md, and O29 about
spec/41_key_schedule.md. -/

namespace Sys2Proof.Machine

/-! ## The transformations and their inverses -/

section
variable (s : Mat)

theorem invSubBytes_subBytes : invSubBytes (subBytes s) = s :=
  Mat.ext_entries fun r c => by rw [invSubBytes_getElem, subBytes_getElem, invSbox_sbox]

theorem subBytes_invSubBytes : subBytes (invSubBytes s) = s :=
  Mat.ext_entries fun r c => by rw [subBytes_getElem, invSubBytes_getElem, sbox_invSbox]

theorem invShiftRows_shiftRows : invShiftRows (shiftRows s) = s :=
  Mat.ext_entries fun r c => by simp only [invShiftRows_getElem, shiftRows_getElem, sub_add_cancel]

theorem shiftRows_invShiftRows : shiftRows (invShiftRows s) = s :=
  Mat.ext_entries fun r c => by simp only [shiftRows_getElem, invShiftRows_getElem, add_sub_cancel_right]

end

/-! ## The matrices -/

/-- A row of coefficients times a column, over the field (spec/42_round_pipeline.md R178). -/
def rowTimes (m v : Fin 4 → Byte) : Byte :=
  gfMul (m 0) (v 0) ^^^ gfMul (m 1) (v 1) ^^^ gfMul (m 2) (v 2) ^^^ gfMul (m 3) (v 3)

theorem mulColumns_getElem (m : Vector Byte 4) (s : Mat) (r c : Fin 4) :
    (mulColumns m s)[r][c] = rowTimes (circulant m r) fun k => s[k][c] := by
  simp [mulColumns, rowTimes]

/-- The product of two rows of coefficients, as in a matrix product. -/
theorem rowTimes_rowTimes (m : Fin 4 → Byte) (n : Fin 4 → Fin 4 → Byte) (v : Fin 4 → Byte) :
    rowTimes m (fun k => rowTimes (n k) v) = rowTimes (fun j => rowTimes m fun k => n k j) v := by
  simp only [rowTimes, gfMul_xor_left, gfMul_xor_right, gfMul_assoc]
  ac_rfl

theorem rowTimes_unit (r : Fin 4) (v : Fin 4 → Byte) : rowTimes (fun j => if j = r then 1 else 0) v = v r := by
  have one : ∀ a : Byte, gfMul 1#8 a = a := gfMul_one_left
  have zero : ∀ a : Byte, gfMul 0#8 a = 0#8 := gfMul_zero_left
  fin_cases r <;> simp [rowTimes, one, zero]

/-- The two matrices are inverse over the field, either way round: four rows each. -/
theorem circulant_inverse :
    (∀ r j : Fin 4, rowTimes (circulant invMixList r) (fun k => circulant mixList k j) = if j = r then 1 else 0) ∧
    ∀ r j : Fin 4, rowTimes (circulant mixList r) (fun k => circulant invMixList k j) = if j = r then 1 else 0 := by
  decide +kernel

theorem mulColumns_mulColumns {m n : Vector Byte 4}
    (h : ∀ r j : Fin 4, rowTimes (circulant m r) (fun k => circulant n k j) = if j = r then 1 else 0) (s : Mat) :
    mulColumns m (mulColumns n s) = s :=
  Mat.ext_entries fun r c => by
    simp only [mulColumns_getElem, rowTimes_rowTimes, h, rowTimes_unit]

theorem invMixColumns_mixColumns (s : Mat) : invMixColumns (mixColumns s) = s :=
  mulColumns_mulColumns circulant_inverse.1 s

theorem mixColumns_invMixColumns (s : Mat) : mixColumns (invMixColumns s) = s :=
  mulColumns_mulColumns circulant_inverse.2 s

/-! ## The block transforms (spec/42_round_pipeline.md R185, R188) -/

section
variable (w : Schedule)

theorem invRound_fwdRound (s : Mat) (r : Nat) : invRound w (fwdRound w s r) r = s := by
  rw [invRound, fwdRound, addRoundKey_addRoundKey, invMixColumns_mixColumns, invShiftRows_shiftRows,
    invSubBytes_subBytes]

theorem fwdRound_invRound (s : Mat) (r : Nat) : fwdRound w (invRound w s r) r = s := by
  rw [invRound, fwdRound, subBytes_invSubBytes, shiftRows_invShiftRows, mixColumns_invMixColumns,
    addRoundKey_addRoundKey]

/-- Steps undone one by one, the last first. -/
theorem foldl_reverse_foldl {α ι : Type} {f g : α → ι → α} (h : ∀ a i, g (f a i) i = a) (l : List ι) (a : α) :
    l.reverse.foldl g (l.foldl f a) = a := by
  induction l generalizing a with
  | nil => rfl
  | cons i l ih => rw [List.foldl_cons, List.reverse_cons, List.foldl_append, ih, List.foldl_cons, h, List.foldl_nil]

theorem foldl_foldl_reverse {α ι : Type} {f g : α → ι → α} (h : ∀ a i, f (g a i) i = a) (l : List ι) (a : α) :
    l.foldl f (l.reverse.foldl g a) = a := by
  have := foldl_reverse_foldl h l.reverse a
  rwa [List.reverse_reverse] at this

theorem invState_fwdState (s : Mat) (nr : Nat) : invState (fwdState s w nr) w nr = s := by
  rw [invState, fwdState, addRoundKey_addRoundKey, invShiftRows_shiftRows, invSubBytes_subBytes,
    foldl_reverse_foldl (invRound_fwdRound w), addRoundKey_addRoundKey]

theorem fwdState_invState (s : Mat) (nr : Nat) : fwdState (invState s w nr) w nr = s := by
  rw [invState, fwdState, addRoundKey_addRoundKey, foldl_foldl_reverse (fwdRound_invRound w), subBytes_invSubBytes,
    shiftRows_invShiftRows, addRoundKey_addRoundKey]

theorem inverse_forward (l : Block) (nr : Nat) : inverse (forward l w nr) w nr = l := by
  rw [inverse, forward, toState_toLinear, invState_fwdState, toLinear_toState]

end

/-! ## Commands on S -/

theorem exec_mixColumns (s : State) : exec .mixColumns s = .next (completeFlags (s.setSt (mixColumns s.st)) 0) := rfl

theorem exec_invMixColumns (s : State) :
    exec .invMixColumns s = .next (completeFlags (s.setSt (invMixColumns s.st)) 0) := rfl

theorem exec_encBlk_of_valid {s : State} (h : s.schedValid = true) :
    exec .encBlk s = .next (completeFlags (s.setSt (fwdState s.st s.w (nrOfCode s.schedVar))) 0) := by
  obtain ⟨hinvalid, -⟩ | ⟨-, hnext⟩ := execEncBlk_cases s
  · exact nomatch h.symm.trans hinvalid
  · exact hnext

theorem exec_decBlk_of_valid {s : State} (h : s.schedValid = true) :
    exec .decBlk s = .next (completeFlags (s.setSt (invState s.st s.w (nrOfCode s.schedVar))) 0) := by
  obtain ⟨hinvalid, -⟩ | ⟨-, hnext⟩ := execDecBlk_cases s
  · exact nomatch h.symm.trans hinvalid
  · exact hnext

/-- The commands that need a schedule look for it first (spec/60_exceptions.md R268). -/
theorem exec_of_noSchedule {r : Nat} {i : Instr} {s : State} (h : s.schedValid = false)
    (hi : i ∈ [Instr.addRoundKey r, .encBlk, .decBlk]) :
    exec i s = .next (completeFlags s (errorCode .noSchedule)) := by
  simp only [List.mem_cons, List.not_mem_nil, or_false] at hi
  obtain rfl | rfl | rfl := hi
  · exact if_pos h
  · exact if_pos h
  · exact if_pos h

theorem exec_addRoundKey_of_gt {r : Nat} {s : State} (hvalid : s.schedValid = true) (hr : nrOfCode s.schedVar < r) :
    exec (.addRoundKey r) s = .next (completeFlags s (errorCode .operandRange)) := by
  obtain ⟨hinvalid, -⟩ | ⟨-, -, hraise⟩ | ⟨-, hle, -⟩ := execAddRoundKey_cases r s
  · exact nomatch hvalid.symm.trans hinvalid
  · exact hraise
  · exact absurd hr (Nat.not_lt.mpr hle)

theorem exec_expandInstr_of_wrongKeyLen {x : Variant} {s : State} (h : s.keylen.toNat ≠ keyLen x) :
    exec (expandInstr x) s = .next (completeFlags s.consumeKey (errorCode .invalidKeyLength)) := by
  rw [exec_expandInstr]
  obtain ⟨-, hraise⟩ | ⟨heq, -⟩ := expandCommand_cases x s
  · exact hraise
  · exact absurd heq h

/-! ## Runs of commands -/

theorem execAll_append_of_next {a : List Instr} {s t : State} (h : execAll a s = .next t) (b : List Instr) :
    execAll (a ++ b) s = execAll b t := by
  induction a generalizing s with
  | nil =>
    obtain rfl := Host.Outcome.next.inj h
    rfl
  | cons i a ih =>
    rw [execAll] at h
    cases hi : exec i s with
    | next u =>
      rw [hi] at h
      rw [List.cons_append, execAll_cons_of_next hi, ih h]
    | fault r => nomatch r
    | refused r => rw [hi] at h; nomatch h

/-- A run of equal parts, one per element of a list, is a fold: each part takes the state of one value to that of the
next. -/
theorem execAll_flatMap {α ι : Type} {part : ι → List Instr} {g : α → ι → α} (state : α → State) (l : List ι)
    (h : ∀ i ∈ l, ∀ a, execAll (part i) (state a) = .next (state (g a i))) (a : α) :
    execAll (l.flatMap part) (state a) = .next (state (l.foldl g a)) := by
  induction l generalizing a with
  | nil => rfl
  | cons i l ih =>
    rw [List.flatMap_cons, execAll_append_of_next (h i List.mem_cons_self a)]
    exact ih (fun j hj => h j (List.mem_cons_of_mem i hj)) _

/-- The engine after commands that wrote S alone, since the state s. -/
def State.afterSt (s : State) (m : Mat) : State := completeFlags (s.setSt m) 0

section
variable (s : State) (m : Mat)

theorem exec_subBytes_afterSt : exec .subBytes (s.afterSt m) = .next (s.afterSt (subBytes m)) := rfl

theorem exec_shiftRows_afterSt : exec .shiftRows (s.afterSt m) = .next (s.afterSt (shiftRows m)) := rfl

theorem exec_mixColumns_afterSt : exec .mixColumns (s.afterSt m) = .next (s.afterSt (mixColumns m)) := rfl

theorem exec_invSubBytes_afterSt : exec .invSubBytes (s.afterSt m) = .next (s.afterSt (invSubBytes m)) := rfl

theorem exec_invShiftRows_afterSt : exec .invShiftRows (s.afterSt m) = .next (s.afterSt (invShiftRows m)) := rfl

theorem exec_invMixColumns_afterSt : exec .invMixColumns (s.afterSt m) = .next (s.afterSt (invMixColumns m)) := rfl

theorem exec_addRoundKey_afterSt {s : State} (hvalid : s.schedValid = true) {r : Nat} (hr : r ≤ nrOfCode s.schedVar)
    (m : Mat) : exec (.addRoundKey r) (s.afterSt m) = .next (s.afterSt (addRoundKey m s.w r)) :=
  exec_addRoundKey_of_le (s := s.afterSt m) hvalid hr

end

/-- One after the other, commands that each answer a next state. -/
theorem execAll_cons_next {i : Instr} {is : List Instr} {s t u : State} (h : exec i s = .next t)
    (hrest : execAll is t = .next u) : execAll (i :: is) s = .next u :=
  (execAll_cons_of_next h is).trans hrest

section
variable {s : State} (hvalid : s.schedValid = true)
include hvalid

/-- The primitive commands of ENCBLK leave FwdState in S (spec/42_round_pipeline.md R187). -/
theorem execAll_encBlkSteps :
    execAll (encBlkSteps (nrOfCode s.schedVar)) s = .next (s.afterSt (fwdState s.st s.w (nrOfCode s.schedVar))) := by
  have key {r : Nat} (hr : r ≤ nrOfCode s.schedVar) (m : Mat) := exec_addRoundKey_afterSt hvalid hr m
  have first : execAll [.addRoundKey 0] s = .next (s.afterSt (addRoundKey s.st s.w 0)) :=
    execAll_cons_next (exec_addRoundKey_of_le hvalid (Nat.zero_le _)) rfl
  have middle := execAll_flatMap (g := fwdRound s.w) s.afterSt (List.range' 1 (nrOfCode s.schedVar - 1))
    (part := fun r => [.subBytes, .shiftRows, .mixColumns, .addRoundKey r]) fun r hr m => by
      have hle : r ≤ nrOfCode s.schedVar := by have := List.mem_range'_1.mp hr; omega
      exact execAll_cons_next (exec_subBytes_afterSt s m) <| execAll_cons_next (exec_shiftRows_afterSt s _) <|
        execAll_cons_next (exec_mixColumns_afterSt s _) <| execAll_cons_next (key hle _) rfl
  rw [encBlkSteps, List.append_assoc, execAll_append_of_next first, execAll_append_of_next (middle _)]
  exact execAll_cons_next (exec_subBytes_afterSt s _) <| execAll_cons_next (exec_shiftRows_afterSt s _) <|
    execAll_cons_next (key (Nat.le_refl _) _) rfl

/-- The primitive commands of DECBLK leave InvState in S (spec/42_round_pipeline.md R190). -/
theorem execAll_decBlkSteps :
    execAll (decBlkSteps (nrOfCode s.schedVar)) s = .next (s.afterSt (invState s.st s.w (nrOfCode s.schedVar))) := by
  have key {r : Nat} (hr : r ≤ nrOfCode s.schedVar) (m : Mat) := exec_addRoundKey_afterSt hvalid hr m
  have first : execAll [.addRoundKey (nrOfCode s.schedVar), .invShiftRows, .invSubBytes] s =
      .next (s.afterSt (invSubBytes (invShiftRows (addRoundKey s.st s.w (nrOfCode s.schedVar))))) :=
    execAll_cons_next (exec_addRoundKey_of_le hvalid (Nat.le_refl _)) <|
      execAll_cons_next (exec_invShiftRows_afterSt s _) <| execAll_cons_next (exec_invSubBytes_afterSt s _) rfl
  have middle := execAll_flatMap (g := invRound s.w) s.afterSt (List.range' 1 (nrOfCode s.schedVar - 1)).reverse
    (part := fun r => [.addRoundKey r, .invMixColumns, .invShiftRows, .invSubBytes]) fun r hr m => by
      have hle : r ≤ nrOfCode s.schedVar := by have := List.mem_range'_1.mp (List.mem_reverse.mp hr); omega
      exact execAll_cons_next (key hle m) <| execAll_cons_next (exec_invMixColumns_afterSt s _) <|
        execAll_cons_next (exec_invShiftRows_afterSt s _) <| execAll_cons_next (exec_invSubBytes_afterSt s _) rfl
  rw [decBlkSteps, List.append_assoc, execAll_append_of_next first, execAll_append_of_next (middle _)]
  exact execAll_cons_next (key (Nat.zero_le _) _) rfl

end

/-! ## The obligations -/

/-- Settles O33: the tables are inverse, the rows rotate back, the matrices are inverse, and a sum cancels itself. -/
theorem transformationsAreInverse : Obligations.TransformationsAreInverse := fun s w r =>
  ⟨invSubBytes_subBytes s, subBytes_invSubBytes s, invShiftRows_shiftRows s, shiftRows_invShiftRows s,
    invMixColumns_mixColumns s, mixColumns_invMixColumns s, addRoundKey_addRoundKey s w r⟩

/-- Settles O36: round by round, a run of primitive commands folds the round over S. -/
theorem blockCommandsArePrimitiveSequences : Obligations.BlockCommandsArePrimitiveSequences := fun s hvalid =>
  ⟨⟨_, _, exec_encBlk_of_valid hvalid, endsWith_completeFlags_setSt s _ 0, onlySt_completeFlags_setSt s _ 0,
      execAll_encBlkSteps hvalid, endsWith_completeFlags_setSt s _ 0, rfl⟩,
    _, _, exec_decBlk_of_valid hvalid, endsWith_completeFlags_setSt s _ 0, onlySt_completeFlags_setSt s _ 0,
    execAll_decBlkSteps hvalid, endsWith_completeFlags_setSt s _ 0, rfl⟩

/-- Settles O37: the block transforms undo each other, and neither command writes the schedule. -/
theorem decBlkUndoesEncBlk : Obligations.DecBlkUndoesEncBlk := by
  intro s hvalid
  have encrypt (m : Mat) := exec_encBlk_of_valid (s := s.afterSt m) hvalid
  have decrypt (m : Mat) := exec_decBlk_of_valid (s := s.afterSt m) hvalid
  exact ⟨⟨_, execAll_cons_next (exec_encBlk_of_valid hvalid) (execAll_cons_next (decrypt _) rfl),
      invState_fwdState s.w s.st _⟩,
    _, execAll_cons_next (exec_decBlk_of_valid hvalid) (execAll_cons_next (encrypt _) rfl),
    fwdState_invState s.w s.st _⟩

/-- Settles O32: the entries of the two matrices written out, a product by 01 being the byte itself. -/
theorem mixColumnsCommands : Obligations.MixColumnsCommands := by
  intro s
  have entry (m : Vector Byte 4) (r c : Fin 4) := mulColumns_getElem m s.st r c
  refine ⟨⟨_, exec_mixColumns s, endsWith_completeFlags_setSt s _ 0, onlySt_completeFlags_setSt s _ 0, fun c => ?_⟩,
    _, exec_invMixColumns s, endsWith_completeFlags_setSt s _ 0, onlySt_completeFlags_setSt s _ 0, fun c => ?_⟩
  · have one : ∀ a : Byte, gfMul 1#8 a = a := gfMul_one_left
    refine ⟨(entry mixList 0 c).trans ?_, (entry mixList 1 c).trans ?_, (entry mixList 2 c).trans ?_,
      (entry mixList 3 c).trans ?_⟩
    all_goals simp [rowTimes, circulant, mixList, one]
  · exact ⟨entry invMixList 0 c, entry invMixList 1 c, entry invMixList 2 c, entry invMixList 3 c⟩

/-- Settles O35: SCHED_VALID is looked at first, then r. -/
theorem scheduleErrorsChangeNothing : Obligations.ScheduleErrorsChangeNothing := by
  intro r s
  refine ⟨fun hinvalid i hi => ?_, fun hvalid hr => ?_⟩
  · exact ⟨_, exec_of_noSchedule hinvalid hi, endsWith_completeFlags s _, onlyFlags_completeFlags s _⟩
  · exact ⟨_, exec_addRoundKey_of_gt hvalid hr, endsWith_completeFlags s _, onlyFlags_completeFlags s _⟩

/-- Settles O29: the key length is checked before the expansion, and the key is consumed either way. -/
theorem expandRejectsWrongKeyLength : Obligations.ExpandRejectsWrongKeyLength := by
  intro x s hkey
  exact ⟨_, exec_expandInstr_of_wrongKeyLen hkey, ⟨rfl, rfl, rfl, rfl, rfl⟩, keyZero_completeFlags_consumeKey s _,
    ⟨rfl, rfl, rfl⟩, ⟨⟨rfl, rfl⟩, rfl, rfl, rfl, ⟨fun _ => rfl, rfl⟩, ⟨fun _ => rfl, rfl⟩, ⟨rfl, rfl, rfl, rfl⟩⟩⟩

end Sys2Proof.Machine

/-! PROOFS. What PAD and the block commands read and write; then the obligations O40, O42, O43 and O44 about
spec/43_padding_segmentation.md and spec/60_exceptions.md. -/

namespace Sys2Proof.Machine

/-! ## Bytes that are not zero, stored in any buffer -/

/-- A byte that is not zero is read back from any buffer, canonical or not: no stale entry comes before it. -/
theorem Memory.read_write_self_of_ne_zero (m : Memory) (a : Nat) {b : Byte} (hb : b ≠ 0) :
    Memory.read (Memory.write m a b) a = b := by
  induction m with
  | nil => rw [Memory.write, if_neg hb]; exact if_pos rfl
  | cons c m ih =>
    obtain ⟨x, y⟩ := c
    rw [Memory.write, if_neg hb, if_neg hb]
    split_ifs with hlt heq
    · exact if_pos rfl
    · exact if_pos rfl
    · exact (if_neg (Ne.symm heq)).trans ih

theorem Memory.read_writeBytes_replicate (m : Memory) {b : Byte} (hb : b ≠ 0) {a x n : Nat} (hlo : a ≤ x)
    (hhi : x < a + n) : Memory.read (Memory.writeBytes m a (List.replicate n b)) x = b := by
  induction n generalizing m a with
  | zero => omega
  | succ n ih =>
    rw [List.replicate_succ, Memory.writeBytes]
    rcases Nat.eq_or_lt_of_le hlo with rfl | hlt
    · rw [Memory.read_writeBytes_of_outside (.inl (Nat.lt_succ_self _)), Memory.read_write_self_of_ne_zero m _ hb]
    · exact ih _ hlt (by omega)

theorem padValue_ne_zero (len : Nat) : BitVec.ofNat 8 (padCount len) ≠ 0 := by
  obtain ⟨hpos, hle⟩ := padCount_range len
  intro h
  have := congrArg BitVec.toNat h
  rw [BitVec.toNat_ofNat, Nat.mod_eq_of_lt (by omega)] at this
  exact absurd this (by simp; omega)

/-! ## PAD -/

/-- The message padded in place, what PAD leaves in IN and LEN (spec/43_padding_segmentation.md R204). -/
def State.padded (s : State) : State :=
  { s with
    inBuf := Memory.writeBytes s.inBuf s.len.toNat (padBytes s.len.toNat),
    len := BitVec.ofNat 32 (s.len.toNat + padCount s.len.toNat) }

theorem exec_pad_of_lt {s : State} (h : s.len.toNat < s.maxLen) :
    exec .pad s = .next (completeFlags s.padded 0) := by
  obtain ⟨hge, -⟩ | ⟨-, hnext⟩ := execPad_cases s
  · exact absurd h (Nat.not_lt.mpr hge)
  · exact hnext

theorem exec_pad_of_ge {s : State} (h : s.maxLen ≤ s.len.toNat) :
    exec .pad s = .next (completeFlags s (errorCode .bufferOverflow)) := by
  obtain ⟨-, hraise⟩ | ⟨hlt, -⟩ := execPad_cases s
  · exact hraise
  · exact absurd h (Nat.not_le.mpr hlt)

section
variable {s : State}

theorem padded_len_toNat (h : s.len.toNat < s.maxLen) : s.padded.len.toNat = s.len.toNat + padCount s.len.toNat :=
  outlen_ofNat_toNat (State.pad_fits h)

theorem padded_inByte_of_padding {j : Nat} (hlo : s.len.toNat ≤ j) (hhi : j < s.len.toNat + padCount s.len.toNat) :
    s.padded.inByte j = BitVec.ofNat 8 (padCount s.len.toNat) :=
  Memory.read_writeBytes_replicate _ (padValue_ne_zero _) hlo hhi

theorem padded_inByte_of_outside {j : Nat} (h : j < s.len.toNat ∨ s.len.toNat + padCount s.len.toNat ≤ j) :
    s.padded.inByte j = s.inByte j :=
  Memory.read_writeBytes_of_outside (by rwa [padBytes, List.length_replicate])

end

/-! ## Block loads and stores -/

@[simp] theorem completeFlags_inByte (s : State) (code : Byte) (j : Nat) :
    (completeFlags s code).inByte j = s.inByte j := rfl

@[simp] theorem completeFlags_outByte (s : State) (code : Byte) (j : Nat) :
    (completeFlags s code).outByte j = s.outByte j := rfl

section
variable {n : Nat} {s : State}

theorem inBlockError_of_block (hmax : s.len.toNat ≤ s.maxLen) (hn : 16 * n + 16 ≤ s.len.toNat) :
    inBlockError n s = none := by
  obtain ⟨hover, -⟩ | ⟨-, hrange, -⟩ | ⟨-, -, hnone⟩ := inBlockError_cases n s
  · omega
  · omega
  · exact hnone

theorem exec_ldBlk_of_block (h : inBlockError n s = none) :
    exec (.ldBlk n) s = .next (completeFlags (s.setSt (toState (Memory.readBlock s.inBuf (16 * n)))) 0) := by
  obtain ⟨_, herror, -⟩ | ⟨-, hnext⟩ := execLdBlk_cases n s
  · exact nomatch h.symm.trans herror
  · exact hnext

theorem exec_chBlk_of_block (h : inBlockError n s = none) :
    exec (.chBlk n) s = .next (completeFlags (s.setChain (Memory.readBlock s.inBuf (16 * n))) 0) := by
  obtain ⟨_, herror, -⟩ | ⟨-, hnext⟩ := execChBlk_cases n s
  · exact nomatch h.symm.trans herror
  · exact hnext

theorem exec_block_of_error {e : CmdError} {i : Instr} (hi : i ∈ [Instr.ldBlk n, .chBlk n])
    (h : inBlockError n s = some e) : exec i s = .next (completeFlags s (errorCode e)) := by
  obtain rfl | rfl := List.mem_pair.mp hi
  · obtain ⟨e', herror, hraise⟩ | ⟨hnone, -⟩ := execLdBlk_cases n s
    · obtain rfl := Option.some.inj (h.symm.trans herror)
      exact hraise
    · exact nomatch h.symm.trans hnone
  · obtain ⟨e', herror, hraise⟩ | ⟨hnone, -⟩ := execChBlk_cases n s
    · obtain rfl := Option.some.inj (h.symm.trans herror)
      exact hraise
    · exact nomatch h.symm.trans hnone

/-- A linear block stored as block n of OUT, what STBLK does to OUT and OUTLEN (spec/43_padding_segmentation.md
R211). -/
def State.stored (s : State) (n : Nat) (b : Block) : State :=
  { s with
    outBuf := Memory.writeBlock s.outBuf (16 * n) b,
    outlen := if s.outlen.toNat < 16 * n + 16 then BitVec.ofNat 32 (16 * n + 16) else s.outlen }

theorem exec_stBlk_of_le (h : 16 * n + 16 ≤ s.maxLen) :
    exec (.stBlk n) s = .next (completeFlags (s.stored n (toLinear s.st)) 0) := by
  obtain ⟨hlt, -⟩ | ⟨-, hnext⟩ := execStBlk_cases n s
  · exact absurd h (Nat.not_le.mpr hlt)
  · exact hnext

theorem exec_stBlk_of_gt (h : s.maxLen < 16 * n + 16) :
    exec (.stBlk n) s = .next (completeFlags s (errorCode .operandRange)) := by
  obtain ⟨-, hraise⟩ | ⟨hle, -⟩ := execStBlk_cases n s
  · exact hraise
  · exact absurd h (Nat.not_lt.mpr hle)

theorem stored_outByte (b : Block) (hwf : Memory.wf s.outBuf = true) (a : Nat) :
    (s.stored n b).outByte a = if 16 * n ≤ a ∧ a < 16 * n + 16 then b.getD (a - 16 * n) 0 else s.outByte a :=
  Memory.read_writeBlock _ a b hwf

theorem endsWith_completeFlags_stored (s : State) (n : Nat) (b : Block) :
    EndsWith s (completeFlags (s.stored n b) 0) 0 := endsWith_completeFlags_out s _ _ 0

theorem onlyOut_completeFlags_stored (s : State) (n : Nat) (b : Block) :
    OnlyOut s (completeFlags (s.stored n b) 0) := onlyOut_completeFlags_out s _ _ 0

end

/-! ## The obligations -/

/-- Settles O40: the padding is written after the message, and its bytes are not zero. -/
theorem padCommandPadsInPlace : Obligations.PadCommandPadsInPlace := by
  intro s hlen
  exact ⟨_, exec_pad_of_lt hlen, ⟨rfl, rfl, rfl, rfl, rfl⟩,
    ⟨⟨rfl, rfl⟩, ⟨rfl, rfl⟩, rfl, rfl, ⟨rfl, rfl, rfl⟩, rfl, ⟨fun _ => rfl, rfl⟩, ⟨rfl, rfl, rfl, rfl⟩⟩,
    padded_len_toNat hlen, fun _ => padded_inByte_of_padding, fun _ => padded_inByte_of_outside⟩

/-- Settles O42: both checks pass, and the block of IN goes to S by columns and to CHAIN in order. -/
theorem blockLoadsReadInput : Obligations.BlockLoadsReadInput := by
  intro n s hmax hn
  have hblock := inBlockError_of_block hmax hn
  refine ⟨⟨_, exec_ldBlk_of_block hblock, endsWith_completeFlags_setSt s _ 0, onlySt_completeFlags_setSt s _ 0,
      fun r c => ?_⟩,
    _, exec_chBlk_of_block hblock, endsWith_completeFlags_setChain s _ 0, onlyChain_completeFlags_setChain s _ 0,
    fun k => ?_⟩
  · simp [State.inByte, Nat.add_assoc]
  · simp [State.inByte]

/-- Settles O43: the block written covers its own 16 bytes, and OUTLEN is the larger of the two ends. -/
theorem blockStoreWritesOutput : Obligations.BlockStoreWritesOutput := by
  intro n s hwf hn
  refine ⟨_, exec_stBlk_of_le hn, endsWith_completeFlags_stored s n _, onlyOut_completeFlags_stored s n _,
    fun r c => ?_, fun a ha => ?_, storedOutlen_toNat hn⟩
  · have hoffset : 16 * n + r.val + 4 * c.val - 16 * n = r.val + 4 * c.val := by omega
    rw [completeFlags_outByte, stored_outByte _ hwf, if_pos (by omega), hoffset, toLinear_getD_entry]
  · rw [completeFlags_outByte, stored_outByte _ hwf, if_neg (by omega)]

/-- Settles O44: each check in its order raises its own error. -/
theorem bufferErrorsChangeNothing : Obligations.BufferErrorsChangeNothing := by
  intro n s
  have raised {code : Byte} {o : Host.Outcome State Fault Refusal} (ho : o = .next (completeFlags s code)) :
      ∃ t, o = .next t ∧ EndsWith s t code ∧ OnlyFlags s t :=
    ⟨_, ho, endsWith_completeFlags s code, onlyFlags_completeFlags s code⟩
  refine ⟨fun h => raised (exec_pad_of_ge h), fun i hi => ⟨fun hover => ?_, fun hmax hrange => ?_⟩,
    fun h => raised (exec_stBlk_of_gt h)⟩
  · obtain ⟨-, herror⟩ | ⟨hle, -⟩ | ⟨hle, -⟩ := inBlockError_cases n s
    · exact raised (exec_block_of_error hi herror)
    · omega
    · omega
  · obtain ⟨hgt, -⟩ | ⟨-, -, herror⟩ | ⟨-, hle, -⟩ := inBlockError_cases n s
    · omega
    · exact raised (exec_block_of_error hi herror)
    · omega

end Sys2Proof.Machine

/-! PROOFS. The mode functions block by block, and how ENCRYPT and DECRYPT end once the checks are decided; then the
obligations O49, O50, O51, O52, O54 and O55 about spec/44_mode_controller.md. -/

namespace Sys2Proof.Machine

/-! ## Byte sequences and their blocks (spec/43_padding_segmentation.md R201) -/

theorem blockOf_getD {b : List Byte} {i k : Nat} (hk : k < 16) : (blockOf b i).getD k 0 = b.getD (16 * i + k) 0 := by
  simp [Vector.getD, hk]

/-- Sequences of whole blocks are equal when their blocks are. -/
theorem eq_of_blocks {b b' : List Byte} (hlen : b.length = b'.length) (h16 : b.length % 16 = 0)
    (h : ∀ i < b.length / 16, blockOf b i = blockOf b' i) : b = b' := by
  refine List.ext_getElem hlen fun j hj hj' => ?_
  have hbyte := congrArg (fun l : Block => l.getD (j % 16) 0) (h (j / 16) (by omega))
  simpa only [blockOf_getD (Nat.mod_lt j (by decide)), Nat.div_add_mod, List.getD_eq_getElem _ _ hj,
    List.getD_eq_getElem _ _ hj'] using hbyte

theorem split_getElem (b : List Byte) {i : Nat} (h : i < (split b).length) : (split b)[i] = blockOf b i := by
  simp [split]

theorem split_merge (bs : List Block) : split (merge bs) = bs := by
  have hlength : (split (merge bs)).length = bs.length := by rw [split_length, merge_length]; omega
  exact List.ext_getElem hlength fun i hi hi' => by rw [split_getElem, blockOf_merge bs i hi']

theorem merge_split {b : List Byte} (h16 : b.length % 16 = 0) : merge (split b) = b := by
  have hlength : (merge (split b)).length = b.length := by rw [merge_length, split_length]; omega
  refine eq_of_blocks hlength (by rwa [hlength]) fun i hi => ?_
  have hi' : i < (split b).length := by rwa [hlength, ← split_length] at hi
  rw [blockOf_merge _ i hi', split_getElem]

/-- Block i of the padded message is the one the sequencer forms (spec/44_mode_controller.md R240). -/
theorem blockOf_pad_message (s : State) {i : Nat} (hi : i < s.len.toNat / 16 + 1) :
    blockOf (pad s.message) i = paddedBlock s i := by
  refine Vector.ext fun k hk => ?_
  simp only [blockOf_getElem _ _ _ hk, paddedBlock, Vector.getElem_ofFn, pad, padBytes, message_length]
  split_ifs with hmessage
  · rw [List.getD_append _ _ _ _ (by rwa [message_length]), State.message, Memory.readBytes_getD hmessage, Nat.zero_add]
    rfl
  · have hlast := add_padCount s.len.toNat
    rw [List.getD_append_right _ _ _ _ (by rw [message_length]; omega), message_length,
      List.getD_replicate _ (by omega)]

theorem blockOf_message (s : State) {i : Nat} (hi : i < s.len.toNat / 16) : blockOf s.message i = inBlock s i := by
  refine Vector.ext fun k hk => ?_
  rw [blockOf_getElem _ _ _ hk, State.message, Memory.readBytes_getD (by omega), inBlock,
    Memory.readBlock_getElem _ _ _ hk, Nat.zero_add]

/-! ## The mode functions, block by block (spec/44_mode_controller.md R224 to R226) -/

section
variable (w : Schedule) (nr : Nat)

theorem ecbEnc_getElem (ps : List Block) {i : Nat} (h : i < (ecbEnc ps w nr).length) :
    (ecbEnc ps w nr)[i] = forward (ps[i]'(by simpa using h)) w nr := by
  simp [ecbEnc]

theorem ecbDec_getElem (cs : List Block) {i : Nat} (h : i < (ecbDec cs w nr).length) :
    (ecbDec cs w nr)[i] = inverse (cs[i]'(by simpa using h)) w nr := by
  simp [ecbDec]

/-- The blocks of a sequence whose first block has been taken. -/
theorem previous_succ (reg : Block) (blocks : Nat → Block) (i : Nat) :
    previous (blocks 0) (fun j => blocks (j + 1)) i = previous reg blocks (i + 1) := by
  cases i <;> rfl

theorem cbcEnc_getElem (ps : List Block) (reg : Block) (blocks : Nat → Block)
    (hblocks : ∀ (j : Nat) (hj : j < ps.length), blocks j = (cbcEnc ps w nr reg)[j]'(by simpa using hj))
    {i : Nat} (h : i < ps.length) :
    (cbcEnc ps w nr reg)[i]'(by simpa using h) = forward (xorBlock ps[i] (previous reg blocks i)) w nr := by
  induction ps generalizing reg blocks i with
  | nil => nomatch h
  | cons p ps ih =>
    cases i with
    | zero => rfl
    | succ i =>
      have hfirst : blocks 0 = forward (xorBlock p reg) w nr := hblocks 0 (Nat.succ_pos _)
      have hprevious := previous_succ reg blocks i
      rw [hfirst] at hprevious
      rw [← hprevious]
      exact ih _ _ (fun j hj => hblocks (j + 1) (Nat.succ_lt_succ hj)) (Nat.lt_of_succ_lt_succ h)

theorem cbcCombine_getElem (l : List (Block × Block)) (reg : Block) (blocks : Nat → Block)
    (hblocks : ∀ (j : Nat) (hj : j < l.length), blocks j = l[j].2) {i : Nat} (h : i < l.length) :
    (cbcCombine l reg)[i]'(by simpa using h) = xorBlock l[i].1 (previous reg blocks i) := by
  induction l generalizing reg blocks i with
  | nil => nomatch h
  | cons c l ih =>
    cases i with
    | zero => rfl
    | succ i =>
      have hprevious := previous_succ reg blocks i
      rw [show blocks 0 = c.2 from hblocks 0 (Nat.succ_pos _)] at hprevious
      rw [← hprevious]
      exact ih _ _ (fun j hj => hblocks (j + 1) (Nat.succ_lt_succ hj)) (Nat.lt_of_succ_lt_succ h)

theorem cbcDec_getElem (cs : List Block) (iv : Block) (blocks : Nat → Block)
    (hblocks : ∀ (j : Nat) (hj : j < cs.length), blocks j = cs[j]) {i : Nat} (h : i < cs.length) :
    (cbcDec cs w nr iv)[i]'(by simpa using h) = xorBlock (inverse cs[i] w nr) (previous iv blocks i) := by
  have hpairs := cbcCombine_getElem ((ecbDec cs w nr).zip cs) iv blocks
    (fun j hj => by rw [List.getElem_zip]; exact hblocks j (by simpa using hj)) (i := i) (by simpa using h)
  rwa [List.getElem_zip, ecbDec_getElem] at hpairs

/-- Decryption undoes encryption, block by block (spec/44_mode_controller.md section 6). -/
theorem ecbDec_ecbEnc (ps : List Block) : ecbDec (ecbEnc ps w nr) w nr = ps := by
  simp [ecbDec, ecbEnc, Function.comp_def, inverse_forward]

theorem cbcDec_cbcEnc (ps : List Block) (reg : Block) : cbcDec (cbcEnc ps w nr reg) w nr reg = ps := by
  induction ps generalizing reg with
  | nil => rfl
  | cons p ps ih =>
    change xorBlock (inverse (forward (xorBlock p reg) w nr) w nr) reg ::
      cbcDec (cbcEnc ps w nr (forward (xorBlock p reg) w nr)) w nr (forward (xorBlock p reg) w nr) = p :: ps
    rw [ih, inverse_forward, xorBlock_self_right]

end

/-! ## Whole messages (spec/44_mode_controller.md R229) -/

theorem split_pad_message_length (s : State) : (split (pad s.message)).length = s.len.toNat / 16 + 1 := by
  rw [split_length, pad_length, message_length]; omega

section
variable (s : State) (x : Variant) (k : List Byte) (iv : Block) {i : Nat}

theorem blockOf_enc_ecb (hi : i < s.len.toNat / 16 + 1) :
    blockOf (enc s.message x .ecb k iv) i = forward (paddedBlock s i) (schedule x k) (nr x) := by
  have hblocks := split_pad_message_length s
  rw [enc, blockOf_merge _ i (by rwa [ecbEnc_length, hblocks]), ecbEnc_getElem, split_getElem, blockOf_pad_message s hi]

/-- In CBC each block of ciphertext is chained to the one before it, the first to the IV. -/
theorem blockOf_enc_cbc (hi : i < s.len.toNat / 16 + 1) :
    blockOf (enc s.message x .cbc k iv) i =
      forward (xorBlock (paddedBlock s i) (previous iv (blockOf (enc s.message x .cbc k iv)) i)) (schedule x k)
        (nr x) := by
  have hblocks := split_pad_message_length s
  have hmerged (j : Nat) (hj : j < (split (pad s.message)).length) :
      blockOf (enc s.message x .cbc k iv) j = (cbcEnc (split (pad s.message)) (schedule x k) (nr x) iv)[j]'(by
        rwa [cbcEnc_length]) := blockOf_merge _ j _
  rw [hmerged i (by rwa [hblocks]), cbcEnc_getElem _ _ _ iv _ hmerged (by rwa [hblocks]), split_getElem,
    blockOf_pad_message s hi]

/-- The decrypted message, padding still on it, is the blocks of `plainBlock`. -/
theorem blockOf_decPadded (y : Mode) (hi : i < s.len.toNat / 16) :
    blockOf (decPadded s.message x y (s.keyBytes x) s.iv) i = plainBlock s x y i := by
  have hblocks : (split s.message).length = s.len.toNat / 16 := by rw [split_length, message_length]
  have hinput (j : Nat) (hj : j < (split s.message).length) : inBlock s j = (split s.message)[j] := by
    rw [split_getElem, blockOf_message s (by rwa [hblocks] at hj)]
  cases y with
  | ecb =>
    rw [decPadded, blockOf_merge _ i (by rwa [ecbDec_length, hblocks]), ecbDec_getElem, ← hinput]
    rfl
  | cbc =>
    rw [decPadded, blockOf_merge _ i (by rwa [cbcDec_length, hblocks]),
      cbcDec_getElem _ _ _ s.iv _ hinput (by rwa [hblocks]), ← hinput]
    rfl

end

theorem decPadded_enc (m : List Byte) (x : Variant) (y : Mode) (k : List Byte) (iv : Block) :
    decPadded (enc m x y k iv) x y k iv = pad m := by
  have h16 : (pad m).length % 16 = 0 := by rw [pad_length]; omega
  cases y with
  | ecb => rw [decPadded, enc, split_merge, ecbDec_ecbEnc, merge_split h16]
  | cbc => rw [decPadded, enc, split_merge, cbcDec_cbcEnc, merge_split h16]

/-- `Dec` undoes `Enc` (spec/44_mode_controller.md R246). -/
theorem dec_enc (m : List Byte) (x : Variant) (y : Mode) (k : List Byte) (iv : Block) :
    dec (enc m x y k iv) x y k iv = some m := by
  obtain ⟨hpos, hle⟩ := padCount_range m.length
  rw [dec, decPadded_enc, pad, padBytes, unpad_append_replicate m hpos hle]

/-- A plaintext given block by block is the one `Dec` takes the padding from. -/
theorem eq_decPadded {s : State} {x : Variant} {y : Mode} {b : List Byte} (h16 : s.len.toNat % 16 = 0)
    (hlen : b.length = s.len.toNat) (hb : ∀ i < s.len.toNat / 16, blockOf b i = plainBlock s x y i) :
    b = decPadded s.message x y (s.keyBytes x) s.iv := by
  have hlength : b.length = (decPadded s.message x y (s.keyBytes x) s.iv).length := by
    rw [decPadded_length, message_length]; omega
  refine eq_of_blocks hlength (by rwa [hlen]) fun i hi => ?_
  rw [hlen] at hi
  rw [hb i hi, blockOf_decPadded s x y hi]

/-- In ECB the IV is not read. -/
theorem enc_congr_iv (m : List Byte) (x : Variant) {y : Mode} (k : List Byte) {iv iv' : Block}
    (h : y = .cbc → iv' = iv) : enc m x y k iv' = enc m x y k iv := by
  cases y with
  | ecb => rfl
  | cbc => rw [h rfl]

theorem dec_congr_iv (c : List Byte) (x : Variant) {y : Mode} (k : List Byte) {iv iv' : Block}
    (h : y = .cbc → iv' = iv) : dec c x y k iv' = dec c x y k iv := by
  cases y with
  | ecb => rfl
  | cbc => rw [h rfl]

/-! ## How the commands end, by their checks (spec/44_mode_controller.md R231, R232) -/

section
variable {x : Variant} {y : Mode} {s : State}

theorem iv_check (hiv : y = .cbc → s.ivp = true) : ¬(y = .cbc ∧ s.ivp = false) := fun ⟨hcbc, habsent⟩ =>
  nomatch (hiv hcbc).symm.trans habsent

theorem exec_encryptInstr_of_checks (hkey : s.keylen.toNat = keyLen x) (hiv : y = .cbc → s.ivp = true)
    (hlen : s.len.toNat < s.maxLen) :
    exec (encryptInstr x y) s =
      .next (completeFlags (s.setResult (enc s.message x y (s.keyBytes x) s.iv)).wipeSecrets 0) := by
  rw [exec_encryptInstr, encryptCommand, if_neg (not_not.mpr hkey), if_neg (iv_check hiv), if_neg (Nat.not_le.mpr hlen),
    endMessage_eq]

section
variable (hkey : s.keylen.toNat = keyLen x) (h16 : s.len.toNat % 16 = 0) (hiv : y = .cbc → s.ivp = true)
  (hlen : s.len.toNat ≤ s.maxLen)
include hkey h16 hiv hlen

theorem exec_decryptInstr_of_some {r : List Byte} (hdec : dec s.message x y (s.keyBytes x) s.iv = some r) :
    exec (decryptInstr x y) s = .next (completeFlags (s.setResult r).wipeSecrets 0) := by
  rw [exec_decryptInstr, decryptCommand, if_neg (not_not.mpr hkey), if_neg (not_not.mpr h16), if_neg (iv_check hiv),
    if_neg (Nat.not_lt.mpr hlen), hdec]
  exact endMessage_eq s r

theorem exec_decryptInstr_of_none (hdec : dec s.message x y (s.keyBytes x) s.iv = none) :
    exec (decryptInstr x y) s = failMessage s .invalidPadding := by
  rw [exec_decryptInstr, decryptCommand, if_neg (not_not.mpr hkey), if_neg (not_not.mpr h16), if_neg (iv_check hiv),
    if_neg (Nat.not_lt.mpr hlen), hdec]

end

end

/-- A whole-message command that fails leaves no result and no secret (spec/60_exceptions.md R271). -/
theorem failed_message {s : State} {e : CmdError} {o : Host.Outcome State Fault Refusal} (ho : o = failMessage s e) :
    ∃ t, o = .next t ∧ EndsWith s t (errorCode e) ∧ ResultZero t ∧ SecretsZero t ∧ MessageFrame s t :=
  ⟨_, ho, ⟨rfl, rfl, rfl, rfl, rfl⟩, ⟨fun _ => rfl, rfl⟩, secretsZero_completeFlags_wipeSecrets _ _,
    messageFrame_completeFlags_wipeSecrets s _ _ _⟩

/-! ## The result a command leaves -/

@[simp] theorem wipeSecrets_outByte (s : State) (j : Nat) : s.wipeSecrets.outByte j = s.outByte j := rfl

section
variable (s : State) (r : List Byte)

theorem setResult_outByte (j : Nat) : (s.setResult r).outByte j = r.getD j 0 := Memory.read_ofBytes r j

theorem readBlock_setResult (i : Nat) : Memory.readBlock (s.setResult r).outBuf (16 * i) = blockOf r i :=
  Vector.ext fun k hk => by
    rw [Memory.readBlock_getElem _ _ _ hk, blockOf_getElem _ _ _ hk, setResult_outBuf, Memory.read_ofBytes]

end

/-- Bytes read from a buffer that holds a sequence are that sequence. -/
theorem Memory.readBytes_eq {m : Memory} {r : List Byte} (h : ∀ j < r.length, Memory.read m j = r.getD j 0) :
    Memory.readBytes m 0 r.length = r :=
  List.ext_getElem (Memory.readBytes_length ..) fun j hj hj' => by
    have hread := (Memory.readBytes_getD (m := m) (a := 0) hj').trans ((congrArg (Memory.read m) (Nat.zero_add j)).trans
      (h j hj'))
    rwa [List.getD_eq_getElem _ _ hj, List.getD_eq_getElem _ _ hj'] at hread

theorem setResult_result {s : State} {r : List Byte} (hr : r.length ≤ s.maxLen) : (s.setResult r).result = r := by
  rw [State.result, setResult_outlen, outlen_ofNat_toNat hr]
  exact Memory.readBytes_eq fun j _ => Memory.read_ofBytes r j

theorem endsWith_completeFlags_message (s : State) (r : List Byte) :
    EndsWith s (completeFlags (s.setResult r).wipeSecrets 0) 0 := ⟨rfl, rfl, rfl, rfl, rfl⟩

/-! ## Two states with the same inputs -/

section
variable {x : Variant} {y : Mode} {s t : State}

theorem message_of_sameInputs (h : SameInputs x y s t) : t.message = s.message := by
  obtain ⟨-, -, hlen, hin, -, -⟩ := h
  rw [State.message, State.message, hlen]
  exact List.map_congr_left fun j hj => by
    rw [Nat.zero_add]
    exact hin j (List.mem_range.mp hj)

theorem keyBytes_of_sameInputs (h : SameInputs x y s t) : t.keyBytes x = s.keyBytes x := by
  obtain ⟨hkey, -⟩ := h
  refine List.ext_getElem (by rw [keyBytes_length, keyBytes_length]) fun j hj hj' => ?_
  have hj' : j < keyLen x := by rwa [keyBytes_length] at hj
  have h32 : j < 32 := by cases x <;> exact hj'.trans_le (by decide)
  simpa [State.keyBytes] using hkey ⟨j, h32⟩ hj'

/-- The checks of IVP agree, and in CBC an IV that is present is the same. -/
theorem ivCheck_of_sameInputs (h : SameInputs x y s t) : (y = .cbc ∧ t.ivp = false) ↔ (y = .cbc ∧ s.ivp = false) := by
  obtain ⟨-, -, -, -, -, hiv⟩ := h
  exact and_congr_right fun hcbc => by rw [(hiv hcbc).1]

theorem iv_of_sameInputs (h : SameInputs x y s t) (hiv : ¬(y = .cbc ∧ s.ivp = false)) : y = .cbc → t.iv = s.iv := by
  obtain ⟨-, -, -, -, -, hsame⟩ := h
  exact fun hcbc => (hsame hcbc).2 (by simpa [hcbc] using hiv)

end

/-- Two outcomes are next states with the same OUT, OUTLEN and ERRCODE. -/
def SameEnd (o p : Host.Outcome State Fault Refusal) : Prop :=
  ∃ u v, o = .next u ∧ p = .next v ∧ SameOut u v ∧ v.errcode = u.errcode

theorem sameEnd_failMessage (s t : State) (e : CmdError) : SameEnd (failMessage s e) (failMessage t e) :=
  ⟨_, _, rfl, rfl, ⟨fun _ => rfl, rfl⟩, rfl⟩

theorem sameEnd_endMessage (s t : State) {r r' : List Byte} (h : r' = r) :
    SameEnd (endMessage s r) (endMessage t r') :=
  ⟨_, _, rfl, rfl, by subst h; exact ⟨fun _ => rfl, rfl⟩, rfl⟩

theorem sameEnd_encrypt {x : Variant} {y : Mode} {s t : State} (h : SameInputs x y s t) :
    SameEnd (encryptCommand x y s) (encryptCommand x y t) := by
  have hivp := ivCheck_of_sameInputs h
  have hiv := iv_of_sameInputs h
  have hmessage := message_of_sameInputs h
  have hkey := keyBytes_of_sameInputs h
  obtain ⟨-, hkeylen, hlen, -, hmax, -⟩ := h
  unfold encryptCommand
  simp only [hkeylen, hlen, hmax, hivp, hmessage, hkey]
  split_ifs with _ hpresent
  · exact sameEnd_failMessage s t _
  · exact sameEnd_failMessage s t _
  · exact sameEnd_failMessage s t _
  · exact sameEnd_endMessage s t (enc_congr_iv _ x _ (hiv hpresent))

theorem sameEnd_decrypt {x : Variant} {y : Mode} {s t : State} (h : SameInputs x y s t) :
    SameEnd (decryptCommand x y s) (decryptCommand x y t) := by
  have hivp := ivCheck_of_sameInputs h
  have hiv := iv_of_sameInputs h
  have hmessage := message_of_sameInputs h
  have hkey := keyBytes_of_sameInputs h
  obtain ⟨-, hkeylen, hlen, -, hmax, -⟩ := h
  unfold decryptCommand
  simp only [hkeylen, hlen, hmax, hivp, hmessage, hkey]
  split_ifs with _ _ hpresent
  · exact sameEnd_failMessage s t _
  · exact sameEnd_failMessage s t _
  · exact sameEnd_failMessage s t _
  · exact sameEnd_failMessage s t _
  · rw [dec_congr_iv _ x _ (hiv hpresent)]
    cases dec s.message x y (s.keyBytes x) s.iv with
    | none => exact sameEnd_failMessage s t _
    | some r => exact sameEnd_endMessage s t rfl

/-! ## The obligations -/

/-- Settles O49: OUT holds `Enc` of the message, whose blocks follow the mode. -/
theorem encryptBlockByBlock : Obligations.EncryptBlockByBlock := by
  intro x y s hkey hiv hlen
  have hfits := State.pad_fits hlen
  rw [add_padCount] at hfits
  have hlength : (enc s.message x y (s.keyBytes x) s.iv).length = 16 * (s.len.toNat / 16 + 1) := by
    rw [enc_length, message_length]
  have hblock (i : Nat) := readBlock_setResult s (enc s.message x y (s.keyBytes x) s.iv) i
  refine ⟨_, exec_encryptInstr_of_checks hkey hiv hlen, endsWith_completeFlags_message s _, ?_, fun i hi => ?_,
    fun j hj => ?_, secretsZero_completeFlags_wipeSecrets _ 0, messageFrame_completeFlags_wipeSecrets s _ _ 0⟩
  · rw [completeFlags_outlen, wipeSecrets_outlen, setResult_outlen, hlength, outlen_ofNat_toNat hfits]
  · simp only [completeFlags_outBuf, wipeSecrets_outBuf, hblock]
    cases y with
    | ecb => exact blockOf_enc_ecb s x _ _ hi
    | cbc => exact blockOf_enc_cbc s x _ _ hi
  · rw [completeFlags_outByte, wipeSecrets_outByte, setResult_outByte, List.getD_eq_default _ _ (by rwa [hlength])]

/-- Settles O50: the blocks given are those `Dec` decrypts to, and it takes the padding off. -/
theorem decryptBlockByBlock : Obligations.DecryptBlockByBlock := by
  intro x y s b r p hkey h16 hiv hlen hb hblocks hpos hle hpadded
  have hdec : dec s.message x y (s.keyBytes x) s.iv = some r := by
    rw [dec, ← eq_decPadded h16 hb hblocks]
    exact unpad_eq_some_iff.mpr ⟨p, hpos, hle, hpadded⟩
  have hlength : r.length = s.len.toNat - p := by
    have := congrArg List.length hpadded
    rw [hb, List.length_append, List.length_replicate] at this
    omega
  have hfits : r.length ≤ s.maxLen := by omega
  refine ⟨_, exec_decryptInstr_of_some hkey h16 hiv hlen hdec, endsWith_completeFlags_message s r, ?_,
    setResult_result hfits, fun j hj => ?_, secretsZero_completeFlags_wipeSecrets _ 0,
    messageFrame_completeFlags_wipeSecrets s _ _ 0⟩
  · rw [completeFlags_outlen, wipeSecrets_outlen, setResult_outlen, outlen_ofNat_toNat hfits, hlength]
  · rw [completeFlags_outByte, wipeSecrets_outByte, setResult_outByte, List.getD_eq_default _ _ (by rwa [hlength])]

/-- Settles O51: `Dec` fails on a plaintext that is no padded message. -/
theorem decryptRejectsBadPadding : Obligations.DecryptRejectsBadPadding := by
  intro x y s b hkey h16 hiv hlen hb hblocks hnot
  have hdec : dec s.message x y (s.keyBytes x) s.iv = none := by
    rw [dec, ← eq_decPadded h16 hb hblocks]
    exact unpad_eq_none hnot
  exact failed_message (exec_decryptInstr_of_none hkey h16 hiv hlen hdec)

/-- Settles O52: each check is reached when those before it pass. -/
theorem messageErrorsInOrder : Obligations.MessageErrorsInOrder := by
  intro x y s
  refine ⟨fun i hi hkey => failed_message (e := .invalidKeyLength) ?_,
    fun hkey h16 => failed_message (e := .invalidInputLength) ?_,
    fun hkey hcbc habsent => ⟨failed_message (e := .missingIv) ?_, fun h16 => failed_message (e := .missingIv) ?_⟩,
    fun hkey hiv => ⟨fun hover => failed_message (e := .bufferOverflow) ?_,
      fun h16 hover => failed_message (e := .bufferOverflow) ?_⟩⟩
  · obtain rfl | rfl := List.mem_pair.mp hi
    · rw [exec_encryptInstr, encryptCommand, if_pos hkey]
    · rw [exec_decryptInstr, decryptCommand, if_pos hkey]
  · rw [exec_decryptInstr, decryptCommand, if_neg (not_not.mpr hkey), if_pos h16]
  · rw [exec_encryptInstr, encryptCommand, if_neg (not_not.mpr hkey), if_pos ⟨hcbc, habsent⟩]
  · rw [exec_decryptInstr, decryptCommand, if_neg (not_not.mpr hkey), if_neg (not_not.mpr h16),
      if_pos ⟨hcbc, habsent⟩]
  · rw [exec_encryptInstr, encryptCommand, if_neg (not_not.mpr hkey), if_neg (iv_check hiv), if_pos hover]
  · rw [exec_decryptInstr, decryptCommand, if_neg (not_not.mpr hkey), if_neg (not_not.mpr h16), if_neg (iv_check hiv),
      if_pos hover]

/-- Settles O54: both commands are a function of the inputs, check by check. -/
theorem messageResultDependsOnInputsOnly : Obligations.MessageResultDependsOnInputsOnly := by
  intro x y s t h i hi
  obtain rfl | rfl := List.mem_pair.mp hi
  · rw [exec_encryptInstr, exec_encryptInstr]
    exact sameEnd_encrypt h
  · rw [exec_decryptInstr, exec_decryptInstr]
    exact sameEnd_decrypt h

/-- Settles O55: the ciphertext loaded back is the message of the second state, and `Dec` undoes `Enc`. -/
theorem decryptUndoesEncrypt : Obligations.DecryptUndoesEncrypt := by
  intro x y s d hkey hiv hlen
  refine ⟨_, exec_encryptInstr_of_checks hkey hiv hlen, rfl, fun hdkey hdkeylen hdiv hdivp hdmax hdlen hdin => ?_⟩
  simp only [completeFlags_outlen, wipeSecrets_outlen, setResult_outlen, completeFlags_outByte, wipeSecrets_outByte,
    setResult_outByte] at hdlen hdin
  have hfits := State.pad_fits hlen
  have hlength := enc_length x y (s.keyBytes x) s.iv s.message
  rw [message_length, ← add_padCount] at hlength
  rw [← hlength] at hfits
  rw [outlen_ofNat_toNat hfits] at hdin
  have hdlen' : d.len.toNat = (enc s.message x y (s.keyBytes x) s.iv).length := by
    rw [hdlen, outlen_ofNat_toNat hfits]
  have hmessage : d.message = enc s.message x y (s.keyBytes x) s.iv := by
    rw [State.message, hdlen']
    exact Memory.readBytes_eq hdin
  have hkeyBytes : d.keyBytes x = s.keyBytes x := by rw [State.keyBytes, hdkey, State.keyBytes]
  have hdec : dec d.message x y (d.keyBytes x) d.iv = some s.message := by rw [hmessage, hkeyBytes, hdiv, dec_enc]
  have hshort : s.message.length ≤ d.maxLen := by rw [message_length, hdmax]; exact hlen.le
  refine ⟨_, exec_decryptInstr_of_some (by rwa [hdkeylen]) ?_ (by rwa [hdivp]) ?_ hdec, rfl, ?_,
    setResult_result hshort⟩
  · rw [hdlen', hlength, add_padCount, Nat.mul_mod_right]
  · rwa [hdlen', hdmax]
  · rw [completeFlags_outlen, wipeSecrets_outlen, setResult_outlen, message_length, BitVec.ofNat_toNat,
      BitVec.setWidth_eq]

end Sys2Proof.Machine

/-! PROOFS. The reference sequences store the blocks of `Enc` and `Dec` in OUT, in any order of the lanes; then the
obligations O56, O57 and O58 about spec/44_mode_controller.md sections 4 and 5. -/

namespace Sys2Proof.Machine

/-! ## Blocks in a buffer -/

theorem wf_storeBlock {m : Memory} (i : Nat) (b : Block) (hwf : Memory.wf m = true) :
    Memory.wf (storeBlock m i b) = true := Memory.wf_writeBlock _ b hwf

theorem readBlock_storeBlock {m : Memory} (i j : Nat) (b : Block) (hwf : Memory.wf m = true) :
    Memory.readBlock (storeBlock m i b) (16 * j) = if j = i then b else Memory.readBlock m (16 * j) := by
  split_ifs with hj
  · rw [hj]
    exact Memory.readBlock_writeBlock _ b hwf
  · refine Vector.ext fun k hk => ?_
    rw [Memory.readBlock_getElem _ _ _ hk, Memory.readBlock_getElem _ _ _ hk, storeBlock,
      Memory.read_writeBlock _ _ b hwf, if_neg (by omega)]

/-- A buffer whose first k blocks are those of a byte sequence, in canonical form. -/
structure HoldsBlocks (m : Memory) (c : List Byte) (k : Nat) : Prop where
  wf : Memory.wf m = true
  block : ∀ i < k, Memory.readBlock m (16 * i) = blockOf c i

section
variable {m : Memory} {c : List Byte} {k : Nat}

theorem HoldsBlocks.read (h : HoldsBlocks m c k) {x : Nat} (hx : x < 16 * k) : Memory.read m x = c.getD x 0 := by
  have hk : x % 16 < 16 := Nat.mod_lt x (by decide)
  have hbyte := congrArg (fun b : Block => b[x % 16]) (h.block (x / 16) (by omega))
  simpa only [Memory.readBlock_getElem _ _ _ hk, blockOf_getElem _ _ _ hk, Nat.div_add_mod] using hbyte

/-- The next block stored. -/
theorem HoldsBlocks.store (h : HoldsBlocks m c k) {b : Block} (hb : b = blockOf c k) :
    HoldsBlocks (storeBlock m k b) c (k + 1) where
  wf := wf_storeBlock k b h.wf
  block i hi := by
    rw [readBlock_storeBlock _ _ _ h.wf]
    split_ifs with hik
    · rw [hb, hik]
    · exact h.block i (by omega)

theorem HoldsBlocks.keepBelow (h : HoldsBlocks m c k) (hc : c.length = 16 * k) :
    Memory.keepBelow m (16 * k) = Memory.ofBytes c := by
  refine Memory.ext_of_read (Memory.wf_keepBelow _ h.wf) (Memory.wf_ofBytes c) fun x => ?_
  rw [Memory.read_keepBelow, Memory.read_ofBytes]
  split_ifs with hx
  · exact h.read hx
  · rw [List.getD_eq_default _ _ (by omega)]

theorem HoldsBlocks.readBytes (h : HoldsBlocks m c k) (hc : c.length = 16 * k) :
    Memory.readBytes m 0 (16 * k) = c := by
  rw [← hc]
  exact Memory.readBytes_eq fun j hj => h.read (by omega)

end

/-! ## Batches of lanes (spec/44_mode_controller.md R236) -/

theorem runBatches_eq_foldl (f : Nat → Block) (out : Memory) (batches : List (List Nat)) :
    runBatches f out batches = batches.flatten.foldl (fun o i => storeBlock o i (f i)) out := by
  rw [List.foldl_flatten]
  rfl

/-- Blocks stored in any order: each one listed is there, the others are as before. -/
theorem foldl_storeBlock (f : Nat → Block) (l : List Nat) {out : Memory} (hwf : Memory.wf out = true) :
    Memory.wf (l.foldl (fun o i => storeBlock o i (f i)) out) = true ∧
    ∀ j, Memory.readBlock (l.foldl (fun o i => storeBlock o i (f i)) out) (16 * j) =
      if j ∈ l then f j else Memory.readBlock out (16 * j) := by
  induction l generalizing out with
  | nil => exact ⟨hwf, fun j => rfl⟩
  | cons i l ih =>
    obtain ⟨hwf', hblock⟩ := ih (wf_storeBlock i (f i) hwf)
    refine ⟨hwf', fun j => ?_⟩
    rw [List.foldl_cons, hblock, readBlock_storeBlock _ _ _ hwf]
    by_cases hl : j ∈ l
    · rw [if_pos hl, if_pos (List.mem_cons_of_mem i hl)]
    · by_cases hi : j = i
      · rw [if_neg hl, if_pos hi, if_pos (hi ▸ List.mem_cons_self), hi]
      · rw [if_neg hl, if_neg hi, if_neg (by simp [hl, hi])]

/-- Batches that hold the blocks 0 .. n-1, in any order, store each of them. -/
theorem readBlock_runBatches (f : Nat → Block) {out : Memory} (hwf : Memory.wf out = true) {batches : List (List Nat)}
    {n : Nat} (hperm : batches.flatten.Perm (List.range n)) :
    Memory.wf (runBatches f out batches) = true ∧
    ∀ j < n, Memory.readBlock (runBatches f out batches) (16 * j) = f j := by
  obtain ⟨hwf', hblock⟩ := foldl_storeBlock f batches.flatten hwf
  rw [runBatches_eq_foldl]
  exact ⟨hwf', fun j hj => (hblock j).trans (if_pos (hperm.mem_iff.mpr (List.mem_range.mpr hj)))⟩

/-! ## The loop of ENCRYPT (spec/44_mode_controller.md R240, R241) -/

theorem cbcEncStep_eq (s : State) (w : Schedule) (nr : Nat) (acc : Memory × Block) (i : Nat) :
    cbcEncStep s w nr acc i =
      (storeBlock acc.1 i (forward (xorBlock (paddedBlock s i) acc.2) w nr),
        forward (xorBlock (paddedBlock s i) acc.2) w nr) := rfl

/-- The chaining register of CBC encryption holds the ciphertext block before. -/
theorem foldl_cbcEncStep (s : State) (x : Variant) (k : List Byte) (iv : Block) {out : Memory}
    (hwf : Memory.wf out = true) {n : Nat} (hn : n ≤ s.len.toNat / 16 + 1) :
    ∃ m, (List.range n).foldl (cbcEncStep s (schedule x k) (nr x)) (out, iv) =
        (m, previous iv (blockOf (enc s.message x .cbc k iv)) n) ∧
      HoldsBlocks m (enc s.message x .cbc k iv) n := by
  induction n with
  | zero => exact ⟨out, rfl, hwf, fun i hi => nomatch hi⟩
  | succ n ih =>
    obtain ⟨m, hfold, hholds⟩ := ih (by omega)
    have hblock := blockOf_enc_cbc s x k iv (i := n) (by omega)
    refine ⟨storeBlock m n (blockOf (enc s.message x .cbc k iv) n), ?_, hholds.store rfl⟩
    rw [List.range_succ, List.foldl_append, List.foldl_cons, List.foldl_nil, hfold, cbcEncStep_eq, ← hblock]
    rfl

theorem encryptLoop_holds {x : Variant} {y : Mode} {s : State} {batches : List (List Nat)}
    (hwf : Memory.wf s.outBuf = true) (hperm : batches.flatten.Perm (List.range (s.len.toNat / 16 + 1))) :
    HoldsBlocks (encryptLoop s x y batches) (enc s.message x y (s.keyBytes x) s.iv) (s.len.toNat / 16 + 1) := by
  cases y with
  | ecb =>
    obtain ⟨hwf', hblock⟩ := readBlock_runBatches
      (fun i => forward (paddedBlock s i) (schedule x (s.keyBytes x)) (nr x)) hwf hperm
    exact ⟨hwf', fun i hi => (hblock i hi).trans (blockOf_enc_ecb s x _ s.iv hi).symm⟩
  | cbc =>
    obtain ⟨m, hfold, hholds⟩ := foldl_cbcEncStep s x (s.keyBytes x) s.iv hwf (Nat.le_refl _)
    rw [encryptLoop, paddedBlocks, hfold]
    exact hholds

/-! ## The loop of DECRYPT (spec/44_mode_controller.md R242, R243) -/

/-- The combine phase: below n the plain blocks, from n on the transformed ones, and the register holds the block of IN
before. -/
theorem foldl_combineStep (s : State) (x : Variant) {out : Memory} (hwf : Memory.wf out = true)
    (hout : ∀ j < s.len.toNat / 16, Memory.readBlock out (16 * j) =
      inverse (inBlock s j) (schedule x (s.keyBytes x)) (nr x)) {n : Nat} (hn : n ≤ s.len.toNat / 16) :
    ∃ m, (List.range n).foldl (combineStep s) (out, s.iv) = (m, previous s.iv (inBlock s) n) ∧
      HoldsBlocks m (decPadded s.message x .cbc (s.keyBytes x) s.iv) n ∧
      ∀ j, n ≤ j → Memory.readBlock m (16 * j) = Memory.readBlock out (16 * j) := by
  induction n with
  | zero => exact ⟨out, rfl, ⟨hwf, fun i hi => nomatch hi⟩, fun _ _ => rfl⟩
  | succ n ih =>
    obtain ⟨m, hfold, hholds, hlater⟩ := ih (by omega)
    have hblock : xorBlock (Memory.readBlock m (16 * n)) (previous s.iv (inBlock s) n) =
        blockOf (decPadded s.message x .cbc (s.keyBytes x) s.iv) n := by
      rw [hlater n (Nat.le_refl n), hout n (by omega), blockOf_decPadded s x .cbc (by omega)]
      rfl
    refine ⟨storeBlock m n (blockOf (decPadded s.message x .cbc (s.keyBytes x) s.iv) n), ?_, hholds.store rfl,
      fun j hj => ?_⟩
    · rw [List.range_succ, List.foldl_append, List.foldl_cons, List.foldl_nil, hfold, combineStep, hblock]
      rfl
    · rw [readBlock_storeBlock _ _ _ hholds.wf, if_neg (by omega), hlater j (by omega)]

theorem decryptLoop_holds {x : Variant} {y : Mode} {s : State} {batches : List (List Nat)}
    (hwf : Memory.wf s.outBuf = true) (hperm : batches.flatten.Perm (List.range (s.len.toNat / 16))) :
    HoldsBlocks (decryptLoop s x y batches) (decPadded s.message x y (s.keyBytes x) s.iv) (s.len.toNat / 16) := by
  obtain ⟨hwf', hblock⟩ := readBlock_runBatches
    (fun i => inverse (inBlock s i) (schedule x (s.keyBytes x)) (nr x)) hwf hperm
  cases y with
  | ecb => exact ⟨hwf', fun i hi => (hblock i hi).trans (blockOf_decPadded s x .ecb hi).symm⟩
  | cbc =>
    obtain ⟨m, hfold, hholds, -⟩ := foldl_combineStep s x hwf' hblock (Nat.le_refl _)
    rw [decryptLoop, hfold]
    exact hholds

/-- The plaintext cut back to what `Unpad` returns is the buffer that holds it. -/
theorem keepBelow_unpadded {m : Memory} {c r : List Byte} {n : Nat} (h : HoldsBlocks m c n) (hc : c.length = 16 * n)
    (hr : unpad c = some r) :
    Memory.keepBelow (Memory.writeBytes m r.length (List.replicate (16 * n - r.length) 0)) (16 * n) =
      Memory.ofBytes r := by
  obtain ⟨p, -, -, hpadded⟩ := eq_append_replicate_of_unpad hr
  have hlength := congrArg List.length hpadded
  rw [hc, List.length_append, List.length_replicate] at hlength
  refine Memory.ext_of_read (Memory.wf_keepBelow _ (Memory.wf_writeBytes _ _ h.wf)) (Memory.wf_ofBytes r) fun x => ?_
  rw [Memory.read_keepBelow, Memory.read_writeBytes _ _ _ h.wf, Memory.read_ofBytes, List.length_replicate]
  rcases Nat.lt_or_ge x r.length with hkept | hcut
  · rw [if_pos (by omega), if_neg (by omega), h.read (by omega), hpadded, List.getD_append _ _ _ _ hkept]
  · rw [List.getD_eq_default _ _ hcut]
    split_ifs with hbelow hzeroed
    · exact List.getD_replicate _ (by omega)
    · omega
    · rfl

/-! ## Lane batches (log 5) -/

/-- The first b batches of L lanes, over n blocks. -/
theorem flatten_lanes (lanes n b : Nat) :
    ((List.range b).map fun b =>
        ((List.range lanes).map fun k => lanes * b + k).filter fun i => decide (i < n)).flatten =
      (List.range (lanes * b)).filter fun i => decide (i < n) := by
  induction b with
  | zero => rfl
  | succ b ih =>
    rw [List.range_succ, List.map_append, List.flatten_append, ih, Nat.mul_succ, List.range_add, List.filter_append]
    simp

theorem filter_lt_range {n m : Nat} (h : n ≤ m) : ((List.range m).filter fun i => decide (i < n)) = List.range n := by
  obtain ⟨d, rfl⟩ := Nat.exists_eq_add_of_le h
  rw [List.range_add, List.filter_append, List.filter_eq_self.mpr (by simp), List.filter_eq_nil_iff.mpr (by simp),
    List.append_nil]

/-! ## The obligations -/

/-- Settles O56: both ends hold `Enc` of the message in OUT and zero above it. -/
theorem encryptSequenceReachesCompletion : Obligations.EncryptSequenceReachesCompletion := by
  intro x y s batches hkey hiv hlen hwf hperm
  have hlength : (enc s.message x y (s.keyBytes x) s.iv).length = 16 * (s.len.toNat / 16 + 1) := by
    rw [enc_length, message_length]
  have hout := (encryptLoop_holds (x := x) (y := y) hwf hperm).keepBelow hlength
  rw [exec_encryptInstr_of_checks hkey hiv hlen, encryptSequence, State.complete_eq, paddedBlocks, hout, ← hlength]
  rfl

/-- Settles O57: both take the padding off the same plaintext, valid or not. -/
theorem decryptSequenceReachesCompletion : Obligations.DecryptSequenceReachesCompletion := by
  intro x y s batches hkey h16 hiv hlen hwf hperm
  have hholds := decryptLoop_holds (x := x) (y := y) hwf hperm
  have hlength : (decPadded s.message x y (s.keyBytes x) s.iv).length = 16 * (s.len.toNat / 16) := by
    rw [decPadded_length, message_length]
  have hbytes := hholds.readBytes hlength
  have hwhole : 16 * (s.len.toNat / 16) = s.len.toNat := by omega
  rw [hwhole] at hbytes
  rw [decryptSequence, hbytes]
  cases hdec : unpad (decPadded s.message x y (s.keyBytes x) s.iv) with
  | none => exact exec_decryptInstr_of_none hkey h16 hiv hlen hdec
  | some r =>
    have hout := keepBelow_unpadded hholds hlength hdec
    rw [hwhole] at hout
    rw [exec_decryptInstr_of_some hkey h16 hiv hlen hdec]
    dsimp only
    rw [hout]
    rfl

/-- Settles O58: the batches are consecutive runs of LANES indices, cut off at n. -/
theorem laneBatchesCoverBlocksOnce : Obligations.LaneBatchesCoverBlocksOnce := by
  intro cfg n
  refine ⟨?_, fun batch hbatch => ?_⟩
  · have hcover : n ≤ cfg.lanes * ((n + cfg.lanes - 1) / cfg.lanes) := by
      have hpos : 0 < cfg.lanes := Nat.succ_pos _
      have := Nat.lt_mul_div_succ (n + cfg.lanes - 1) hpos
      rw [Nat.mul_succ] at this
      omega
    rw [laneBatches, flatten_lanes, filter_lt_range hcover]
  · obtain ⟨b, -, rfl⟩ := List.mem_map.mp hbatch
    refine (List.length_filter_le ..).trans ?_
    rw [List.length_map, List.length_range]

end Sys2Proof.Machine

/-! PROOFS. The primitive commands run block by block leave in OUT what the whole-message commands leave; then the
obligations O59 and O60 about spec/44_mode_controller.md R245. -/

namespace Sys2Proof.Machine

/-! ## Runs over block indices -/

/-- A run of one part per index below n, by an invariant that each part takes from k to k + 1. -/
theorem execAll_flatMap_range {part : Nat → List Instr} {inv : Nat → State → Prop} {n : Nat} {s : State}
    (hpart : ∀ k < n, ∀ t, inv k t → ∃ u, execAll (part k) t = .next u ∧ inv (k + 1) u) (hs : inv 0 s) :
    ∃ t, execAll ((List.range n).flatMap part) s = .next t ∧ inv n t := by
  induction n with
  | zero => exact ⟨s, rfl, hs⟩
  | succ n ih =>
    obtain ⟨t, hrun, ht⟩ := ih fun k hk => hpart k (by omega)
    obtain ⟨u, hlast, hu⟩ := hpart n (Nat.lt_succ_self n) t ht
    refine ⟨u, ?_, hu⟩
    rw [List.range_succ, List.flatMap_append, execAll_append_of_next hrun, List.flatMap_singleton, hlast]

theorem execAll_singleton (i : Instr) (s : State) : execAll [i] s = exec i s := by
  rw [execAll]
  cases exec i s <;> rfl

/-! ## Commands on S, and the block commands after them -/

section
variable (s : State) (m : Mat)

theorem exec_xch_afterSt : exec .xch (s.afterSt m) = .next (s.afterSt (m.addBlock s.chain)) := rfl

theorem exec_ldBlk_afterSt {k : Nat} (h : inBlockError k s = none) :
    exec (.ldBlk k) s = .next (s.afterSt (toState (inBlock s k))) := exec_ldBlk_of_block h

theorem exec_stBlk_afterSt {k : Nat} (h : 16 * k + 16 ≤ s.maxLen) :
    exec (.stBlk k) (s.afterSt m) = .next (completeFlags ((s.afterSt m).stored k (toLinear m)) 0) :=
  exec_stBlk_of_le (s := s.afterSt m) h

theorem exec_encBlk_afterSt (hvalid : s.schedValid = true) :
    exec .encBlk (s.afterSt m) = .next (s.afterSt (fwdState m s.w (nrOfCode s.schedVar))) :=
  exec_encBlk_of_valid (s := s.afterSt m) hvalid

theorem exec_decBlk_afterSt (hvalid : s.schedValid = true) :
    exec .decBlk (s.afterSt m) = .next (s.afterSt (invState m s.w (nrOfCode s.schedVar))) :=
  exec_decBlk_of_valid (s := s.afterSt m) hvalid

end

theorem addBlock_toState (b l : Block) : (toState b).addBlock l = toState (xorBlock b l) :=
  Mat.ext_entries fun r c => by simp [Mat.addBlock]

theorem toLinear_addBlock (m : Mat) (l : Block) : toLinear (m.addBlock l) = xorBlock (toLinear m) l := by
  rw [← toState_toLinear m, addBlock_toState, toLinear_toState, toState_toLinear]

/-! ## The block loop -/

/-- In a loop of block commands that began in s, the first k blocks of c stand in OUT, which is zero above them and ends
there; the message, the parameters and the schedule are those of s. -/
structure BlockLoop (s : State) (c : List Byte) (k : Nat) (t : State) : Prop where
  inBuf : t.inBuf = s.inBuf
  len : t.len = s.len
  cfg : t.cfg = s.cfg
  sched : SameSchedule s t
  holds : HoldsBlocks t.outBuf c k
  above : ∀ j, 16 * k ≤ j → t.outByte j = 0
  outlen : t.outlen.toNat = 16 * k

section
variable {s t : State} {c : List Byte} {k : Nat} (h : BlockLoop s c k t)
include h

theorem BlockLoop.maxLen_eq : t.maxLen = s.maxLen := congrArg Config.maxLen h.cfg

theorem BlockLoop.inBlock_eq (i : Nat) : inBlock t i = inBlock s i := by rw [inBlock, h.inBuf, inBlock]

theorem BlockLoop.inBlockError_eq (i : Nat) : inBlockError i t = inBlockError i s := by
  rw [inBlockError, h.len, h.maxLen_eq, inBlockError]

/-- STBLK of the next block. -/
theorem BlockLoop.stored (hroom : 16 * k + 16 ≤ s.maxLen) (m : Mat) {b : Block} (hb : b = blockOf c k) :
    BlockLoop s c (k + 1) (completeFlags ((t.afterSt m).stored k b) 0) where
  inBuf := h.inBuf
  len := h.len
  cfg := h.cfg
  sched := h.sched
  holds := h.holds.store hb
  above j hj := by
    have hread := stored_outByte (s := t.afterSt m) (n := k) b h.holds.wf j
    rw [if_neg (by omega)] at hread
    exact hread.trans (h.above j (by omega))
  outlen := by
    have hend := storedOutlen_toNat (s := t) (n := k) (by rwa [h.maxLen_eq])
    exact hend.trans (by rw [h.outlen]; omega)

theorem BlockLoop.setChain (b : Block) : BlockLoop s c k (completeFlags (t.setChain b) 0) :=
  ⟨h.inBuf, h.len, h.cfg, h.sched, h.holds, h.above, h.outlen⟩

/-- OUT is the sequence c once all its blocks are stored. -/
theorem BlockLoop.outByte_eq (hc : c.length = 16 * k) (j : Nat) : t.outByte j = c.getD j 0 := by
  rcases Nat.lt_or_ge j (16 * k) with hj | hj
  · exact h.holds.read hj
  · rw [h.above j hj, List.getD_eq_default _ _ (by rwa [hc])]

end

/-! ## The mode's combination with the block before (spec/44_mode_controller.md R224 to R226) -/

/-- A block as the mode combines it with the chaining register: not at all in ECB. -/
def modeCombine : Mode → Block → Block → Block
  | .ecb, b, _ => b
  | .cbc, b, reg => xorBlock b reg

theorem blockOf_enc (s : State) (x : Variant) (y : Mode) (k : List Byte) (iv : Block) {i : Nat}
    (hi : i < s.len.toNat / 16 + 1) :
    blockOf (enc s.message x y k iv) i =
      forward (modeCombine y (paddedBlock s i) (previous iv (blockOf (enc s.message x y k iv)) i)) (schedule x k)
        (nr x) := by
  cases y with
  | ecb => exact blockOf_enc_ecb s x k iv hi
  | cbc => exact blockOf_enc_cbc s x k iv hi

theorem plainBlock_eq (s : State) (x : Variant) (y : Mode) (i : Nat) :
    plainBlock s x y i =
      modeCombine y (inverse (inBlock s i) (schedule x (s.keyBytes x)) (nr x)) (previous s.iv (inBlock s) i) := by
  cases y <;> rfl

/-! ## One block of the two programs (spec/44_mode_controller.md R245) -/

/-- In the loop of a mode CHAIN holds, for CBC, the block the next one is combined with. -/
def ModeLoop (s : State) (c : List Byte) (y : Mode) (regs : Nat → Block) (k : Nat) (t : State) : Prop :=
  BlockLoop s c k t ∧ (y = .cbc → t.chain = regs k)

/-- A loop that goes on has a block k of IN, room for it in OUT, and the schedule w. -/
structure BlockReady (s : State) (x : Variant) (w : Schedule) (k : Nat) : Prop where
  block : inBlockError k s = none
  room : 16 * k + 16 ≤ s.maxLen
  valid : s.schedValid = true
  var : s.schedVar = x.code
  sched : s.w = w

theorem BlockReady.of_loop {s t : State} {c : List Byte} {x : Variant} {w : Schedule} {k j : Nat}
    (hready : BlockReady s x w k) (h : BlockLoop s c j t) : BlockReady t x w k := by
  obtain ⟨hw, hvalid, hvar⟩ := h.sched
  obtain ⟨hblock, hroom, hv, hx, hs⟩ := hready
  exact ⟨by rwa [h.inBlockError_eq], by rwa [h.maxLen_eq], hvalid.trans hv, hvar.trans hx, hw.trans hs⟩

section
variable {s t : State} {c : List Byte} {k : Nat} {x : Variant} {y : Mode} {w : Schedule} {regs : Nat → Block}
  (h : ModeLoop s c y regs k t) (hready : BlockReady s x w k)
include h hready

/-- `LDBLK k ; [XCH] ; ENCBLK ; STBLK k ; [CHS]` stores the next block of ciphertext. -/
theorem execAll_encryptPart (hb : forward (modeCombine y (inBlock s k) (regs k)) w (nr x) = blockOf c k)
    (hregs : regs (k + 1) = blockOf c k) :
    ∃ u, execAll ([.ldBlk k] ++ cbcOnly y .xch ++ [.encBlk, .stBlk k] ++ cbcOnly y .chS) t = .next u ∧
      ModeLoop s c y regs (k + 1) u := by
  obtain ⟨hloop, hreg⟩ := h
  obtain ⟨hblock, hroom, hvalid, hvar, hw⟩ := hready.of_loop hloop
  have hload := exec_ldBlk_afterSt t hblock
  rw [hloop.inBlock_eq] at hload
  have hencrypt (m : Mat) : exec .encBlk (t.afterSt m) = .next (t.afterSt (fwdState m w (nr x))) := by
    rw [exec_encBlk_afterSt t m hvalid, hw, hvar]
    rfl
  cases y with
  | ecb =>
    exact ⟨_, execAll_cons_next hload <| execAll_cons_next (hencrypt _) <|
      execAll_cons_next (exec_stBlk_afterSt t _ hroom) rfl, hloop.stored hready.room _ hb, nofun⟩
  | cbc =>
    rw [← hreg rfl, modeCombine, forward, ← addBlock_toState] at hb
    exact ⟨_, execAll_cons_next hload <| execAll_cons_next (exec_xch_afterSt t _) <| execAll_cons_next (hencrypt _) <|
      execAll_cons_next (exec_stBlk_afterSt t _ hroom) <| execAll_cons_next (exec_chS _) rfl,
      (hloop.stored hready.room _ hb).setChain _, fun _ => hb.trans hregs.symm⟩

/-- `LDBLK k ; DECBLK ; [XCH] ; STBLK k ; [CHBLK k]` stores the next block of plaintext. -/
theorem execAll_decryptPart (hb : modeCombine y (inverse (inBlock s k) w (nr x)) (regs k) = blockOf c k)
    (hregs : regs (k + 1) = inBlock s k) :
    ∃ u, execAll ([.ldBlk k, .decBlk] ++ cbcOnly y .xch ++ [.stBlk k] ++ cbcOnly y (.chBlk k)) t = .next u ∧
      ModeLoop s c y regs (k + 1) u := by
  obtain ⟨hloop, hreg⟩ := h
  obtain ⟨hblock, hroom, hvalid, hvar, hw⟩ := hready.of_loop hloop
  have hload := exec_ldBlk_afterSt t hblock
  rw [hloop.inBlock_eq] at hload
  have hdecrypt (m : Mat) : exec .decBlk (t.afterSt m) = .next (t.afterSt (invState m w (nr x))) := by
    rw [exec_decBlk_afterSt t m hvalid, hw, hvar]
    rfl
  cases y with
  | ecb =>
    exact ⟨_, execAll_cons_next hload <| execAll_cons_next (hdecrypt _) <|
      execAll_cons_next (exec_stBlk_afterSt t _ hroom) rfl, hloop.stored hready.room _ hb, nofun⟩
  | cbc =>
    rw [← hreg rfl, modeCombine, inverse, ← toLinear_addBlock] at hb
    have hnext := hloop.stored hready.room ((invState (toState (inBlock s k)) w (nr x)).addBlock t.chain) hb
    exact ⟨_, execAll_cons_next hload <| execAll_cons_next (hdecrypt _) <| execAll_cons_next (exec_xch_afterSt t _) <|
      execAll_cons_next (exec_stBlk_afterSt t _ hroom) <|
      execAll_cons_next (exec_chBlk_of_block (hready.of_loop hnext).block) rfl, hnext.setChain _,
      fun _ => (hnext.inBlock_eq k).trans hregs.symm⟩

end

/-! ## Before the loop -/

/-- The engine after EXPAND has completed with a schedule (spec/41_key_schedule.md R156). -/
def State.expanded (s : State) (x : Variant) (w : Schedule) : State := completeFlags (s.setSchedule x w).consumeKey 0

section
variable (s : State) (x : Variant) (w : Schedule)

@[simp] theorem expanded_len : (s.expanded x w).len = s.len := rfl
@[simp] theorem paddedBlock_expanded (i : Nat) : paddedBlock (s.expanded x w) i = paddedBlock s i := rfl

end

/-- The message padded in place holds the blocks the sequencer forms on the way (spec/44_mode_controller.md R240). -/
theorem inBlock_padded (s : State) {i : Nat} (hi : i < s.len.toNat / 16 + 1) :
    inBlock s.padded i = paddedBlock s i := by
  have hend := add_padCount s.len.toNat
  refine Vector.ext fun k hk => ?_
  rw [inBlock, Memory.readBlock_getElem _ _ _ hk, paddedBlock, Vector.getElem_ofFn]
  split_ifs with hmessage
  · exact padded_inByte_of_outside (.inl hmessage)
  · exact padded_inByte_of_padding (Nat.not_lt.mp hmessage) (by omega)

/-- A loop that has stored no block yet. -/
theorem blockLoop_zero {s : State} (c : List Byte) (hwf : Memory.wf s.outBuf = true) (hzero : ∀ j, s.outByte j = 0)
    (houtlen : s.outlen = 0) : BlockLoop s c 0 s :=
  ⟨rfl, rfl, rfl, ⟨rfl, rfl, rfl⟩, ⟨hwf, fun _ hi => nomatch hi⟩, fun j _ => hzero j, by rw [houtlen]; rfl⟩

/-- CHIV, where the mode is CBC, leaves the loop where it stands and the IV in CHAIN. -/
theorem execAll_chIv {s : State} {c : List Byte} {y : Mode} (h : BlockLoop s c 0 s) (hiv : y = .cbc → s.ivp = true) :
    ∃ t, execAll (cbcOnly y .chIv) s = .next t ∧ BlockLoop s c 0 t ∧ (y = .cbc → t.chain = s.iv) := by
  cases y with
  | ecb => exact ⟨s, rfl, h, nofun⟩
  | cbc => exact ⟨_, execAll_cons_next (exec_chIv_of_present (hiv rfl)) rfl, h.setChain _, fun _ => rfl⟩

/-! ## The two programs -/

section
variable {x : Variant} {y : Mode} {s : State} (hok : BuffersOk s) (houtlen : s.outlen = 0)
  (hkey : s.keylen.toNat = keyLen x) (hiv : y = .cbc → s.ivp = true)
include hok houtlen hkey hiv

/-- The program of ENCRYPT leaves the ciphertext in OUT (spec/44_mode_controller.md R245). -/
theorem execAll_encryptSteps (hlen : s.len.toNat < s.maxLen) :
    ∃ t, execAll (encryptSteps x y (s.len.toNat / 16 + 1)) s = .next t ∧
      (∀ j, t.outByte j = (enc s.message x y (s.keyBytes x) s.iv).getD j 0) ∧
      t.outlen.toNat = 16 * (s.len.toNat / 16 + 1) := by
  generalize hw : schedule x (s.keyBytes x) = w
  generalize hc : enc s.message x y (s.keyBytes x) s.iv = c
  have hclen : c.length = 16 * (s.len.toNat / 16 + 1) := by rw [← hc, enc_length, message_length]
  have hexpand : exec (expandInstr x) s = .next (s.expanded x w) := by
    rw [exec_expandInstr_of_keyLen hkey, hw]
    rfl
  have hpad := exec_pad_of_lt (s := s.expanded x w) hlen
  have hlen' := padded_len_toNat (s := s.expanded x w) hlen
  rw [expanded_len, add_padCount] at hlen'
  have hmax := State.pad_fits hlen
  rw [add_padCount] at hmax
  have hstart : BlockLoop (completeFlags (s.expanded x w).padded 0) c 0 (completeFlags (s.expanded x w).padded 0) :=
    blockLoop_zero c hok.outWf (fun j => hok.outZero j (houtlen ▸ Nat.zero_le j)) houtlen
  obtain ⟨t, hchain, ht⟩ := execAll_chIv hstart hiv
  have hready (k : Nat) (hk : k < s.len.toNat / 16 + 1) : BlockReady (completeFlags (s.expanded x w).padded 0) x w k :=
    ⟨inBlockError_of_block (hlen'.trans_le hmax) (hlen'.ge.trans' (by omega)), hmax.trans' (by omega), rfl, rfl, rfl⟩
  have hpart (k : Nat) (hk : k < s.len.toNat / 16 + 1) (t : State)
      (ht : ModeLoop (completeFlags (s.expanded x w).padded 0) c y (previous s.iv (blockOf c)) k t) :=
    execAll_encryptPart ht (hready k hk) (by
      have hb := blockOf_enc s x y (s.keyBytes x) s.iv hk
      rw [hw, hc, ← paddedBlock_expanded s x w, ← inBlock_padded (s.expanded x w) hk] at hb
      exact hb.symm) rfl
  obtain ⟨u, hrun, hu, -⟩ := execAll_flatMap_range hpart ht
  refine ⟨u, ?_, hu.outByte_eq hclen, hu.outlen⟩
  have hbegin : execAll ([expandInstr x, .pad] ++ cbcOnly y .chIv) s = .next t := by
    rw [execAll_append_of_next (execAll_cons_next hexpand (execAll_cons_next hpad rfl)), hchain]
  rw [encryptSteps, execAll_append_of_next hbegin, hrun]

/-- The program of DECRYPT leaves the decrypted blocks in OUT before its UNPAD (spec/44_mode_controller.md R245). -/
theorem execAll_decryptSteps (h16 : s.len.toNat % 16 = 0) (hlen : s.len.toNat ≤ s.maxLen) :
    ∃ t, execAll (decryptSteps x y (s.len.toNat / 16)) s = exec .unpad t ∧ Memory.wf t.outBuf = true ∧
      (∀ j, t.outByte j = (decPadded s.message x y (s.keyBytes x) s.iv).getD j 0) ∧ t.outlen.toNat = s.len.toNat := by
  generalize hw : schedule x (s.keyBytes x) = w
  generalize hc : decPadded s.message x y (s.keyBytes x) s.iv = c
  have hclen : c.length = 16 * (s.len.toNat / 16) := by rw [← hc, decPadded_length, message_length]
  have hexpand : exec (expandInstr x) s = .next (s.expanded x w) := by
    rw [exec_expandInstr_of_keyLen hkey, hw]
    rfl
  have hstart : BlockLoop (s.expanded x w) c 0 (s.expanded x w) :=
    blockLoop_zero c hok.outWf (fun j => hok.outZero j (houtlen ▸ Nat.zero_le j)) houtlen
  obtain ⟨t, hchain, ht⟩ := execAll_chIv hstart hiv
  have hready (k : Nat) (hk : k < s.len.toNat / 16) : BlockReady (s.expanded x w) x w k :=
    ⟨inBlockError_of_block hlen (by rw [expanded_len]; omega), hlen.trans' (by omega), rfl, rfl, rfl⟩
  have hpart (k : Nat) (hk : k < s.len.toNat / 16) (t : State)
      (ht : ModeLoop (s.expanded x w) c y (previous s.iv (inBlock s)) k t) :=
    execAll_decryptPart ht (hready k hk) (by
      have hb := blockOf_decPadded s x y hk
      rw [hc, plainBlock_eq, hw] at hb
      exact hb.symm) rfl
  obtain ⟨u, hrun, hu, -⟩ := execAll_flatMap_range hpart ht
  refine ⟨u, ?_, hu.holds.wf, hu.outByte_eq hclen, hu.outlen.trans (by omega)⟩
  have hbegin : execAll ([expandInstr x] ++ cbcOnly y .chIv) s = .next t := by
    rw [execAll_append_of_next (execAll_cons_next hexpand rfl), hchain]
  rw [decryptSteps, List.append_assoc, execAll_append_of_next hbegin, execAll_append_of_next hrun,
    execAll_singleton]

end

/-- A result cut back to what `Unpad` returns, with zero above it. -/
theorem cutResult_outByte_eq {t : State} {c r : List Byte} (hwf : Memory.wf t.outBuf = true)
    (hout : ∀ j, t.outByte j = c.getD j 0) (hend : c.length = t.outlen.toNat) (hr : unpad c = some r) (j : Nat) :
    (t.cutResult r.length).outByte j = r.getD j 0 := by
  obtain ⟨p, -, -, hpadded⟩ := eq_append_replicate_of_unpad hr
  have hlength := congrArg List.length hpadded
  rw [hend, List.length_append, List.length_replicate] at hlength
  rcases Nat.lt_or_ge j r.length with hkept | hcut
  · rw [cutResult_outByte_of_kept (by omega) (.inl hkept), hout, hpadded, List.getD_append _ _ _ _ hkept]
  · rw [List.getD_eq_default _ _ hcut]
    rcases Nat.lt_or_ge j t.outlen.toNat with hlt | hge
    · exact cutResult_outByte_of_cut hwf hcut hlt
    · rw [cutResult_outByte_of_kept (by omega) (.inr hge), hout, List.getD_eq_default _ _ (by omega)]

/-! ## The obligations -/

/-- Settles O59: the program's loop and ENCRYPT leave the same ciphertext. -/
theorem primitiveCommandsDoEncrypt : Obligations.PrimitiveCommandsDoEncrypt := by
  intro x y s hok houtlen hkey hiv hlen
  obtain ⟨t, hrun, hout, hend⟩ := execAll_encryptSteps hok houtlen hkey hiv hlen
  refine ⟨t, _, hrun, exec_encryptInstr_of_checks hkey hiv hlen, fun j => ?_, BitVec.eq_of_toNat_eq ?_⟩
  · rw [hout, completeFlags_outByte, wipeSecrets_outByte, setResult_outByte]
  · have hfits := State.pad_fits hlen
    rw [add_padCount] at hfits
    rw [hend, completeFlags_outlen, wipeSecrets_outlen, setResult_outlen, enc_length, message_length,
      outlen_ofNat_toNat hfits]

/-- Settles O60: UNPAD sees the plaintext DECRYPT takes the padding from. -/
theorem primitiveCommandsDoDecrypt : Obligations.PrimitiveCommandsDoDecrypt := by
  intro x y s hok houtlen hkey hiv h16 _ hlen
  obtain ⟨t, hrun, hwf, hout, hend⟩ := execAll_decryptSteps hok houtlen hkey hiv h16 hlen
  have hlength : (decPadded s.message x y (s.keyBytes x) s.iv).length = t.outlen.toNat := by
    rw [decPadded_length, message_length, hend]; omega
  have hresult : t.result = decPadded s.message x y (s.keyBytes x) s.iv := by
    rw [State.result, ← hlength]
    exact Memory.readBytes_eq fun j _ => hout j
  cases hdec : dec s.message x y (s.keyBytes x) s.iv with
  | none =>
    exact ⟨_, _, hrun.trans (exec_unpad_of_none (hresult ▸ hdec)), exec_decryptInstr_of_none hkey h16 hiv hlen hdec,
      ⟨fun _ => rfl, rfl⟩, rfl⟩
  | some r =>
    refine ⟨_, _, hrun.trans (exec_unpad_of_some (hresult ▸ hdec)), exec_decryptInstr_of_some hkey h16 hiv hlen hdec,
      ⟨fun j => ?_, rfl⟩, rfl⟩
    rw [completeFlags_outByte, completeFlags_outByte, wipeSecrets_outByte, setResult_outByte]
    exact cutResult_outByte_eq hwf hout hlength hdec j

end Sys2Proof.Machine
